-- ==== Sys2Proof/Word.lean ====
section
/-! DEFINITION. The word types of the pymu CPU core (spec 00_scope.md R6, R7): bytes and 16-bit addresses, both
unsigned; no value of this hardware is signed. -/

namespace Sys2Proof

/-- `byte` of R7: an unsigned 8-bit value (`XLEN` = 8, R6). -/
abbrev Byte := BitVec 8

/-- `addr` of R7: an unsigned 16-bit value; the width of `PC` (`PCLEN`) and of every address (`ALEN`), R6. Addition
on it is modulo 65536, as R20 and R68 ask of every increment of `PC`. -/
abbrev Addr := BitVec 16

end Sys2Proof
end

