-- ==== Sys2Proof/Machine/ByteOrder.lean ====
section
/-! DEFINITION. Byte order, decided once (R40, R41): every 16-bit quantity, in memory and in the instruction stream, has
its low byte at the lower address. -/

namespace Sys2Proof

/-- `lo + 256 * hi`, that is `hi : lo` (R57); exact, never above `0xFFFF` (R9). -/
def joinBytes (lo hi : Byte) : Addr := hi ++ lo

/-- `v[7:0]`. -/
def lowByte (v : Addr) : Byte := v.extractLsb' 0 8

/-- `v[15:8]`. -/
def highByte (v : Addr) : Byte := v.extractLsb' 8 8

end Sys2Proof
end

