-- ==== Sys2Proof/Syntax.lean ====
section
/-! DEFINITION. The instructions of the closed set of four (R2, R58), and the columns of the opcode table (R53, R58). -/

namespace Sys2Proof

/-- One instruction with its operand: one constructor per row of `spec/opcode_table.json` (R58). -/
inductive Instr where
  /-- LDA immediate, `LDA #<byte>`: the operand byte `imm8` (R56, R83). -/
  | lda (imm : Byte)
  /-- STA absolute, `STA <addr16>`: the 16-bit address (R57, R85). -/
  | sta (addr : Addr)
  /-- SEI (R88). -/
  | sei
  /-- CLD (R90). -/
  | cld
  deriving DecidableEq, Repr

/-- The instruction a table row stands for, without its operand: what the dispatch table maps an opcode byte to. -/
inductive Op where
  | lda | sta | sei | cld
  deriving DecidableEq, Repr

/-- The three instruction formats of R53. -/
inductive Format where
  /-- One byte: the opcode. -/
  | implied
  /-- Two bytes: the opcode, then `imm8`. -/
  | immediate
  /-- Three bytes: the opcode, then `lo`, then `hi`. -/
  | absolute
  deriving DecidableEq, Repr

/-- One row of the opcode table of R58, with the `match` and `mask` of R64: both apply to the opcode byte. -/
structure OpcodeRow where
  op      : Op
  pattern : Byte
  mask    : Byte
  format  : Format
  length  : Nat
  cycles  : Nat
  deriving DecidableEq, Repr

/-- The row an instruction belongs to. -/
def Instr.op : Instr → Op
  | .lda _ => .lda
  | .sta _ => .sta
  | .sei   => .sei
  | .cld   => .cld

end Sys2Proof
end

