-- ==== Sys2Proof/Config.lean ====
section
/-! DEFINITION. The implementation parameters of R6 (00_scope.md): the constants the spec fixes, and the one parameter
it leaves OPEN that is fixed for a machine (`FAIL_TICK_COMPLETES`). The OPEN parameters of reset (the image, the
register, flag and latch values) are arguments of reset: see `Machine/Reset.lean`. -/

namespace Sys2Proof.Config

/-- `MEM_SIZE`: the number of bytes of the one address space (R34). -/
def memSize : Nat := 65536

/-- `RO_BASE`: the first write-protected address (R37). -/
def roBase : Nat := 0x8000

/-- `IMAGE_BASE`: where the image is loaded (R38). -/
def imageBase : Nat := 0xC000

/-- `IMAGE_LEN`: the one accepted length of the image (R39). -/
def imageLen : Nat := 16384

/-- `RESET_VECTOR`: the address of the vector's low byte; its high byte is at the next address (R119). -/
def resetVector : Nat := 0xFFFC

/-- What a byte that nothing has stored to reads as: "zero-initialized" for `0x8000..0xBFFF` (R27, R47), and `RAM_INIT`
for `0x0000..0x7FFF` (decision D5; log entry 5, DEDUCED, unsafe below `0x8000`). -/
def blankByte : Byte := 0x00#8

/-- `NUM_EXECUTORS`: "currently exactly one" (R93). -/
def numExecutors : Nat := 1

/-- `FAIL_TICK_COMPLETES` (R98, decision D10; log entry 14, safe), OPEN: whether the executors registered after a failing one
still get their cycle-step in that tick. A free value: no proof can see which. -/
opaque failTickCompletes : Bool

end Sys2Proof.Config
end

