-- ==== Sys2Proof/WellFormed.lean ====
section
/-! DEFINITION. Which instructions and which images are well formed. -/

namespace Sys2Proof

/-- R60: there is no "illegal operand value: every value of `imm8`, `lo` and `hi` is legal", and the operand fields
have the hardware's widths by their types; so every instruction is well formed, constructor by constructor. -/
def Instr.wf : Instr → Bool
  | .lda _ => true
  | .sta _ => true
  | .sei   => true
  | .cld   => true

/-- R39: the image is "exactly 16384 (0x4000) bytes; any other length is a fatal load error". Its content is never
checked (R110). -/
def imageWf (image : List Byte) : Bool := image.length == Config.imageLen

end Sys2Proof
end

