-- ==== Sys2Proof/Decode.lean ====
section
/-! DEFINITION. The opcode table, the decoder (total on any bytes, rejecting by name) and the encoder (30_encoding.md). -/

namespace Sys2Proof

/-- The four rows of R58. -/
def Op.row : Op → OpcodeRow
  | .lda => ⟨.lda, 0xA9#8, 0xFF#8, .immediate, 2, 2⟩
  | .sta => ⟨.sta, 0x8D#8, 0xFF#8, .absolute, 3, 4⟩
  | .sei => ⟨.sei, 0x78#8, 0xFF#8, .implied, 1, 2⟩
  | .cld => ⟨.cld, 0xD8#8, 0xFF#8, .implied, 1, 2⟩

/-- "the full, closed set for this core" (R58), in the table's order. -/
def opcodeTable : List OpcodeRow := [Op.lda.row, Op.sta.row, Op.sei.row, Op.cld.row]

/-- The dispatch table: "a fixed-size mapping from opcode byte (0-255) to a handler" (R54, R71). `none` is the sentinel,
"unknown opcode", of the 252 unregistered values (R59). It is a constant, not state (R32). -/
def dispatchTable (b : Byte) : Option Op :=
  (opcodeTable.find? fun r => b &&& r.mask == r.pattern).map (·.op)

/-- Why bytes do not decode. -/
inductive DecodeError where
  /-- No byte to decode. The sequencer never presents this: it decodes after an opcode fetch. Safe. -/
  | noBytes
  /-- One of the 252 opcode values of R59, kept by value. -/
  | unimplemented (opcode : Byte)
  /-- The opcode is registered and its operand bytes are missing. The sequencer never presents this. Safe. -/
  | truncated
  deriving DecidableEq, Repr

/-- Operand assembly (R56, R57): the immediate byte is used as it is; an absolute address is its low byte, then its
high byte. Gives the instruction and the bytes after it. -/
def decodeOperand : Op → List Byte → Except DecodeError (Instr × List Byte)
  | .lda, imm :: rest      => .ok (.lda imm, rest)
  | .lda, []               => .error .truncated
  | .sta, lo :: hi :: rest => .ok (.sta (joinBytes lo hi), rest)
  | .sta, [_]              => .error .truncated
  | .sta, []               => .error .truncated
  | .sei, rest             => .ok (.sei, rest)
  | .cld, rest             => .ok (.cld, rest)

/-- The decoder: the opcode byte alone selects the instruction (R54); no state changes how a byte is decoded. -/
def decode : List Byte → Except DecodeError (Instr × List Byte)
  | []        => .error .noBytes
  | b :: rest =>
    match dispatchTable b with
    | none    => .error (.unimplemented b)
    | some op => decodeOperand op rest

/-- The bytes of an instruction in stream order, written from the `encoding` patterns of R53, R58 and R62. -/
def encode : Instr → List Byte
  | .lda imm  => [0b10101001#8, imm]
  | .sta addr => [0b10001101#8, lowByte addr, highByte addr]
  | .sei      => [0b01111000#8]
  | .cld      => [0b11011000#8]

/-- The instruction's length in bytes (R55, R58). -/
def Instr.length (i : Instr) : Nat := i.op.row.length

/-- The instruction's cycle count, "Cycles (incl. fetch)" (R58, R130). -/
def Instr.cycles (i : Instr) : Nat := i.op.row.cycles

/-- The bytes that the low `nbits` bits of `w` stand for, in stream order: R53's little-endian integer, three bytes
(the longest instruction), every bit from `nbits` up taken as 0. -/
def wordBytes (nbits w : Nat) : List Byte :=
  let v := w % 2 ^ nbits
  [BitVec.ofNat 8 v, BitVec.ofNat 8 (v / 256), BitVec.ofNat 8 (v / 65536)]

/-- The instruction the decoder reads from an opcode-table word (bit 0 is bit 0 of the first byte). -/
def decodeTableWord (nbits w : Nat) : Option Instr :=
  match decode (wordBytes nbits w) with
  | .ok (i, _) => some i
  | .error _   => none

end Sys2Proof
end

