-- ==== Sys2Proof/Machine/Memory.lean ====
section
/-! DEFINITION. The memory controller (20_memory.md): one array of 65536 bytes, kept as the list of the cells that differ
from what an unlisted address reads as, and the operations of R35 to R38. -/

namespace Sys2Proof.Machine

/-- The memory array `M` of R26. Plain data in one canonical form: see `Memory.wf`. -/
abbrev Memory := List Host.Cell

/-- The canonical form from address `lo` on: addresses strictly rising, inside the address space of R34, and no cell
equal to what an unlisted address reads as. -/
def Memory.wfFrom (lo : Nat) : Memory → Bool
  | []          => true
  | (k, v) :: m => decide (lo ≤ k) && decide (k < Config.memSize) && (v != Config.blankByte) && Memory.wfFrom (k + 1) m

/-- The canonical form: equal memories are equal lists. -/
def Memory.wf (m : Memory) : Bool := Memory.wfFrom 0 m

/-- `M[a]` of R8: the byte at an address of the array, no access rule applied. An unlisted address reads as
`Config.blankByte` (R27). -/
def Memory.cell : Memory → Nat → Byte
  | [], _          => Config.blankByte
  | (k, v) :: m, a => if k = a then v else Memory.cell m a

/-- `M[a] <- v`, no access rule applied. Keeps the canonical form: storing what an unlisted address reads as removes
the cell. -/
def Memory.setCell : Memory → Nat → Byte → Memory
  | [], a, v          => if v = Config.blankByte then [] else [(a, v)]
  | (k, w) :: m, a, v =>
    if a < k then (if v = Config.blankByte then (k, w) :: m else (a, v) :: (k, w) :: m)
    else if a = k then (if v = Config.blankByte then m else (a, v) :: m)
    else (k, w) :: Memory.setCell m a v

/-- `MemRead(a, 1)` (R35): "addr masked to 16 bits, total function, never fails". It changes no state (R44). -/
def Memory.readByte (m : Memory) (a : Nat) : Byte := m.cell (a % Config.memSize)

/-- `MemRead(a, 2)` (R36): two byte reads, each masked, the low byte at the lower address. Used by reset only. -/
def Memory.readWord (m : Memory) (a : Nat) : Addr := joinBytes (m.readByte a) (m.readByte (a + 1))

/-- `MemWrite(a, 1, v)` (R37): "no-op if `addr >= 0x8000`, else stores". -/
def Memory.writeByte (m : Memory) (a : Nat) (v : Byte) : Memory :=
  if Config.roBase ≤ a then m else m.setCell a v

/-- The cells of a run of bytes placed from address `a` up. -/
def imageCells : Nat → List Byte → Memory
  | _, []      => []
  | a, b :: bs => if b = Config.blankByte then imageCells (a + 1) bs else (a, b) :: imageCells (a + 1) bs

/-- `LoadImage(bytes)` (R38): `M[0xC000 + k] <- bytes[k]` for every `k`, write protection ignored. Reset calls it, with
an image whose length has been checked (R39); no cycle-step does. -/
def Memory.loadImage (m : Memory) (image : List Byte) : Memory :=
  m.filter (fun c => decide (c.1 < Config.imageBase)) ++ imageCells Config.imageBase image
    ++ m.filter (fun c => decide (Config.imageBase + image.length ≤ c.1))

/-- Bytes put into the array from address `a` up, the address wrapping, write protection ignored. No operation of the
hardware: only `State.withFetchWord`, the stand-in for a program loaded from outside, uses it (log entry 1). -/
def Memory.placeBytes (m : Memory) (a : Addr) : List Byte → Memory
  | []      => m
  | b :: bs => Memory.placeBytes (m.setCell a.toNat b) (a + 1#16) bs

end Sys2Proof.Machine
end

