-- ==== Sys2Proof/Machine/State.lean ====
section
/-! DEFINITION. The complete state of the hardware (R33): the register file, the program counter, the four flags, the
sequencer's latches and the memory array; the reasons a cycle-step can stop; and the state after reset. -/

namespace Sys2Proof.Machine

/-- `PHASE` (R29): where the executor rests between cycle-steps. -/
inductive Phase where
  /-- "awaiting opcode fetch", the initial state. -/
  | fetch
  /-- In the fetch cycle: the opcode is in `IR`, `PC` is past it, the table has not been consulted. -/
  | decode
  /-- Inside a fetch-and-advance: the byte is in `DL`, the increment of `PC` is owed. -/
  | operand
  /-- In the settle cycle that ends STA, SEI and CLD: the effect has been applied. -/
  | settle
  /-- Stopped for good by the unimplemented-opcode failure. -/
  | halted
  deriving DecidableEq, Repr

/-- The unimplemented-opcode record (R102): the opcode and the address it was fetched from. -/
structure FaultRecord where
  opcode    : Byte
  fetchedAt : Addr
  deriving DecidableEq, Repr

/-- The tuple of R33, field by field under the spec's names. The flags are four independent bits (R21), never a byte. -/
structure State where
  /-- Accumulator (R13, R14). -/
  a : Byte
  /-- Index register X (R15): held, never read or written by an instruction. -/
  x : Byte
  /-- Index register Y (R15). -/
  y : Byte
  /-- Stack pointer (R16): held, never read or written by an instruction. -/
  s : Byte
  /-- Program counter (R18, R19). -/
  pc : Addr
  /-- Zero flag (R22). -/
  z : Bool
  /-- Negative flag (R22). -/
  n : Bool
  /-- Decimal flag (R23). -/
  d : Bool
  /-- Interrupt-disable flag (R23, R109). -/
  i : Bool
  /-- Where the executor rests (R29). -/
  phase : Phase
  /-- `IR` (R28): the opcode byte most recently fetched. -/
  ir : Byte
  /-- `DL` (R28): the byte a fetch-and-advance has read and not yet delivered. -/
  dl : Byte
  /-- `OPLO` (R28): the low byte of an absolute address already delivered. -/
  oplo : Byte
  /-- `REM` (R28): how many more operand bytes remain to be read after the one in `DL`, 0 or 1. -/
  rem : Fin 2
  /-- `FAULT` (R28, R102). -/
  fault : Option FaultRecord
  /-- The memory array `M` (R26). -/
  mem : Memory
  deriving DecidableEq, Repr

/-- How a cycle-step fails: the one synchronous failure of the hardware (R101, R107). -/
inductive Fault where
  /-- Raised by the cycle-step taken in phase `DECODE` when `IR` is none of the four registered opcodes (R101). It
  carries what is reported, the opcode and the address it was fetched from (R102), and the machine as the failure
  leaves it (R103), halted. This is the spec's own outcome, no weakening: neither safe nor unsafe. -/
  | unimplementedOpcode (opcode : Byte) (fetchedAt : Addr) (left : State)
  deriving DecidableEq, Repr

/-- Why a cycle-step is not given. -/
inductive Refusal where
  /-- Raised by `exec` for an instruction that has no meaning yet. None is left in this model. Safe. -/
  | notModelled (mnemonic : String)
  /-- Raised by `step` and by every meaning when the executor is halted: it "must not be stepped again", and the spec
  gives it no step (R77, R106; decision D7, log entry 9, DEDUCED). Safe. -/
  | executorHalted
  /-- Raised by `step`, `execSei` and `execCld` for a state in phase `OPERAND` whose `IR` is not an opcode with an
  operand: R30 says that no run reaches one and no rule gives it a step (log entry 10, DESIGN CHOICE). Safe. -/
  | noSuspensionPoint
  deriving DecidableEq, Repr

/-- The machine right after reset (R33, R118 to R120), for the image of 16384 zero bytes, so that memory lists nothing
(log entry 1). The spec leaves `A`, `X`, `Y`, `S`, the flags and the latches `IR`, `DL`, `OPLO`, `REM` unspecified at
reset; this one state takes zero for each (log entries 2 to 4, DESIGN CHOICE), and `resetMachine` in
`Machine/Reset.lean` is reset for every image and every value of them. -/
def State.reset : State where
  a := 0x00#8
  x := 0x00#8
  y := 0x00#8
  s := 0x00#8
  pc := Memory.readWord [] Config.resetVector
  z := false
  n := false
  d := false
  i := false
  phase := .fetch
  ir := 0x00#8
  dl := 0x00#8
  oplo := 0x00#8
  rem := 0
  fault := none
  mem := []

end Sys2Proof.Machine
end

