-- ==== Sys2Proof/Machine/Ops.lean ====
section
/-! DEFINITION. The named operations over registers, latches and memory that the sequencer's actions are made of
(40_sequencer.md), and the one shared operation that raises the unimplemented-opcode failure (60_exceptions.md). -/

namespace Sys2Proof.Machine

/-- `PC <- (PC + 1) mod 65536` (R68; the wrap is decision D2, log entry 12, DEDUCED, unsafe). -/
def State.advancePc (t : State) : State := { t with pc := t.pc + 1#16 }

/-- `IR <- b`. -/
def State.latchOpcode (b : Byte) (t : State) : State := { t with ir := b }

/-- `DL <- b; REM <- r`. -/
def State.latchOperand (b : Byte) (r : Fin 2) (t : State) : State := { t with dl := b, rem := r }

/-- `OPLO <- b`: the low byte of an absolute address is delivered. -/
def State.deliverLow (b : Byte) (t : State) : State := { t with oplo := b }

/-- The cycle-step ends; the executor rests in phase `p`. -/
def State.suspendIn (p : Phase) (t : State) : State := { t with phase := p }

/-- `A <- v`. -/
def State.setA (v : Byte) (t : State) : State := { t with a := v }

/-- `Z <- zero; N <- negative`: always both together (R22). -/
def State.setZN (zero negative : Bool) (t : State) : State := { t with z := zero, n := negative }

/-- `D <- v`. -/
def State.setD (v : Bool) (t : State) : State := { t with d := v }

/-- `I <- v`. -/
def State.setI (v : Bool) (t : State) : State := { t with i := v }

/-- `FAULT <- r`. -/
def State.recordFault (r : FaultRecord) (t : State) : State := { t with fault := some r }

/-- `MemRead(a, 1)` (R35) at a 16-bit address. -/
def State.load (t : State) (addr : Addr) : Byte := t.mem.readByte addr.toNat

/-- `MemWrite(a, 1, v)` (R37) at a 16-bit address. -/
def State.store (addr : Addr) (v : Byte) (t : State) : State := { t with mem := t.mem.writeByte addr.toNat v }

/-- The opcode fetch (R66 steps 1 to 3, R72): `IR <- MemRead(PC, 1); PC <- PC + 1; PHASE <- DECODE`. It cannot fail. -/
def State.fetchOpcode (t : State) : State :=
  ((t.latchOpcode (t.load t.pc)).advancePc).suspendIn .decode

/-- The first half of fetch-and-advance (R69): the byte `b` read at `PC` is latched in `DL`, `r` more remain, and the
executor rests in phase `OPERAND` with the increment of `PC` owed. -/
def State.beginFetch (b : Byte) (r : Fin 2) (t : State) : State := (t.latchOperand b r).suspendIn .operand

/-- The bytes of the instruction in flight, in stream order (R53): the bytes the sequencer has already consumed come
from its latches, the bytes it has yet to read from memory at the addresses it will read them from (R19; log entry 11, DEDUCED, safe). -/
def State.inFlight (t : State) : List Byte :=
  match t.phase with
  | .fetch   => [t.load t.pc, t.load (t.pc + 1#16), t.load (t.pc + 2#16)]
  | .settle  => [t.load t.pc, t.load (t.pc + 1#16), t.load (t.pc + 2#16)]
  | .decode  => [t.ir, t.load t.pc, t.load (t.pc + 1#16)]
  | .operand =>
    if t.rem = 1 then [t.ir, t.dl, t.load (t.pc + 1#16)]
    else if dispatchTable t.ir = some .sta then [t.ir, t.oplo, t.dl]
    else [t.ir, t.dl]
  | .halted  => [t.ir]

/-- The machine as the unimplemented-opcode failure leaves it (R102, R103): `FAULT <- (IR, PC - 1)`, `PHASE <- HALTED`,
everything else, `PC` included, as it was. -/
def State.halt (t : State) : State := (t.recordFault ⟨t.ir, t.pc - 1#16⟩).suspendIn .halted

/-- `raise UnimplementedOpcode(IR, PC - 1)` (R73, R101 to R104): the shared operation that takes the hardware's one
exception. Control goes nowhere (R104), so the outcome is the fault of R10, with the halted machine in it. There is no
return from it (R105). -/
def raiseUnimplemented (t : State) : Host.Outcome State Fault Refusal :=
  .fault (.unimplementedOpcode t.ir (t.pc - 1#16) t.halt)

end Sys2Proof.Machine
end

