-- ==== Sys2Proof/Machine/FlagOps.lean ====
section
/-! DEFINITION. SEI and CLD (42_flag_ops.md): one cycle-step of each, from the phase the executor rests in to its next
suspension point (R89, R91). The flag changes at once, in cycle-step 2, with no lag (R89). -/

namespace Sys2Proof.Machine

/-- SEI (R88, R89): the opcode fetch (R72), then `I <- 1` and the settle suspension (R73). It has no operand, so phase
`OPERAND` is no suspension point of it (log entry 10). -/
def execSei (t : State) : Host.Outcome State Fault Refusal :=
  match t.phase with
  | .fetch   => .next t.fetchOpcode
  | .settle  => .next t.fetchOpcode
  | .decode  => .next ((t.setI true).suspendIn .settle)
  | .operand => .refused .noSuspensionPoint
  | .halted  => .refused .executorHalted

/-- CLD (R90, R91): the opcode fetch (R72), then `D <- 0` and the settle suspension (R73). -/
def execCld (t : State) : Host.Outcome State Fault Refusal :=
  match t.phase with
  | .fetch   => .next t.fetchOpcode
  | .settle  => .next t.fetchOpcode
  | .decode  => .next ((t.setD false).suspendIn .settle)
  | .operand => .refused .noSuspensionPoint
  | .halted  => .refused .executorHalted

end Sys2Proof.Machine
end

