-- ==== Sys2Proof/Machine/Flags.lean ====
section
/-! DEFINITION. The derived-value logic of the flag register (42_flag_ops.md R87), the only flag computation there is:
no carry and no overflow exist (R21). -/

namespace Sys2Proof.Machine

/-- `value == 0`. -/
def isZero (v : Byte) : Bool := v == 0x00#8

/-- `(value & 0x80) != 0`. -/
def isNegative (v : Byte) : Bool := (v &&& 0x80#8) != 0x00#8

/-- `UpdateFromResult(value)` (R87): sets `Z` and `N` from the byte and "returns the masked byte unchanged"; a byte has
nothing to mask (decision D17). -/
def updateFromResult (v : Byte) (t : State) : Byte × State := (v, t.setZN (isZero v) (isNegative v))

end Sys2Proof.Machine
end

