-- ==== Sys2Proof/Machine/Operands.lean ====
section
/-! DEFINITION. The two operand forms, immediate (R56) and absolute (R57), as the cycle-steps of fetch-and-advance (R69)
and of the absolute-address fetch (R70) deliver them. -/

namespace Sys2Proof.Machine

/-- Immediate, in phase `DECODE` (R73, opcode `0xA9`): the operand byte is read, none remains. -/
def beginImmediate (imm : Byte) (t : State) : State := t.beginFetch imm 0

/-- Immediate, in phase `OPERAND` (R74): the increment owed is made, and the byte is delivered. -/
def endImmediate (t : State) : State := t.advancePc

/-- Absolute, in phase `DECODE` (R73, opcode `0x8D`): the low byte is read, one remains. -/
def beginAbsolute (addr : Addr) (t : State) : State := t.beginFetch (lowByte addr) 1

/-- Absolute, in phase `OPERAND` with `REM = 1` (R75): the increment owed is made, the low byte is delivered to `OPLO`,
and the second fetch-and-advance reads the high byte. -/
def middleAbsolute (addr : Addr) (t : State) : State :=
  (t.advancePc.deliverLow (lowByte addr)).beginFetch (highByte addr) 0

/-- Absolute, in phase `OPERAND` with `REM = 0` (R76): the increment owed is made, and the address is formed. -/
def endAbsolute (t : State) : State := t.advancePc

end Sys2Proof.Machine
end

