-- ==== Sys2Proof/Machine/LoadStore.lean ====
section
/-! DEFINITION. LDA immediate and STA absolute (41_load_store.md): one cycle-step of each, from the phase the executor
rests in to its next suspension point (R65, R84, R86). -/

namespace Sys2Proof.Machine

/-- `A <- UpdateFromResult(v)`. -/
def loadA (v : Byte) (t : State) : State := (updateFromResult v t).2.setA (updateFromResult v t).1

/-- LDA immediate, cycle-step by cycle-step (R83, R84): the opcode fetch (R72); the operand read (R73); the effect, fused
with the next opcode fetch, since the handler ends without suspending (R74). `imm` is the operand byte of the instruction
in flight: in phase `OPERAND` `step` takes it from `DL` (log entry 11). -/
def execLda (imm : Byte) (t : State) : Host.Outcome State Fault Refusal :=
  match t.phase with
  | .fetch   => .next t.fetchOpcode
  | .settle  => .next t.fetchOpcode
  | .decode  => .next (beginImmediate imm t)
  | .operand => .next (loadA imm (endImmediate t)).fetchOpcode
  | .halted  => .refused .executorHalted

/-- STA absolute, cycle-step by cycle-step (R85, R86): the opcode fetch (R72); the low byte (R73); the high byte (R75);
the store of `A`, which ends in the settle suspension (R76). A store to `0x8000..0xFFFF` is discarded (R37). `addr` is the
operand of the instruction in flight: in phase `OPERAND` `step` takes its bytes from `DL` and `OPLO` once they have been
read (log entry 11). -/
def execSta (addr : Addr) (t : State) : Host.Outcome State Fault Refusal :=
  match t.phase with
  | .fetch   => .next t.fetchOpcode
  | .settle  => .next t.fetchOpcode
  | .decode  => .next (beginAbsolute addr t)
  | .operand =>
    if t.rem = 1 then .next (middleAbsolute addr t)
    else .next (((endAbsolute t).store addr t.a).suspendIn .settle)
  | .halted  => .refused .executorHalted

end Sys2Proof.Machine
end

