-- ==== Sys2Proof/Machine/Dispatch.lean ====
section
/-! DEFINITION. `exec i s`: one cycle-step of the instruction `i` in flight, one arm per constructor of `Instr`. -/

namespace Sys2Proof.Machine

def exec (i : Instr) (s : State) : Host.Outcome State Fault Refusal :=
  match i with
  | .lda imm => Sys2Proof.Machine.execLda imm s
  | .sta addr => Sys2Proof.Machine.execSta addr s
  | .sei => Sys2Proof.Machine.execSei s
  | .cld => Sys2Proof.Machine.execCld s

end Sys2Proof.Machine
end

