-- ==== Sys2Proof/Machine/Step.lean ====
section
/-! DEFINITION. `Step` (R65): one cycle-step of the executor, the hardware's only unit of progress (R12, R132), under the
literal reading of the suspension points (decision D1; log entry 7, DEDUCED, unsafe for claims about mid-instruction
states). -/

namespace Sys2Proof.Machine

/-- `Step` (R65), by the phase the executor rests in. `FETCH` and `SETTLE`: the opcode fetch, which succeeds on any byte
(R72). `DECODE`: the table is consulted, and the handler runs to its first suspension or the failure is raised (R73).
`OPERAND`: the handler resumes (R74 to R76). `HALTED`: refused (R77). With one executor this is also `tick()` (R93). -/
def step (s : State) : Host.Outcome State Fault Refusal :=
  match s.phase with
  | .fetch   => .next s.fetchOpcode
  | .settle  => .next s.fetchOpcode
  | .decode  =>
    match decode s.inFlight with
    | .ok (i, _) => exec i s
    | .error _   => raiseUnimplemented s
  | .operand =>
    match decode s.inFlight with
    | .ok (i, _) => exec i s
    | .error _   => .refused .noSuspensionPoint
  | .halted  => .refused .executorHalted

/-- `k` cycle-steps, stopping at the first failure or refusal: the host's driving loop (R67, R100). -/
def steps : Nat → State → Host.Outcome State Fault Refusal
  | 0, s     => .next s
  | k + 1, s =>
    match step s with
    | .next t    => steps k t
    | .fault r   => .fault r
    | .refused r => .refused r

/-- `s` with the instruction whose bits are `w` at `PC` and the executor ready to fetch it, so that the very next step is
that instruction's first cycle-step. It stands for a program loaded from outside (log entry 1, DESIGN CHOICE): write protection is
ignored, and an executor in mid-instruction, or halted, is put back to `FETCH`. From `State.reset` it changes memory only. -/
def State.withFetchWord (s : State) (nbits w : Nat) : State :=
  { s with
    phase := if s.phase = .settle then .settle else .fetch
    fault := none
    mem := s.mem.placeBytes s.pc (wordBytes nbits w) }

end Sys2Proof.Machine
end

