-- ==== Sys2Proof/Machine/Bus.lean ====
section
/-! DEFINITION. The one memory access a cycle-step makes (R43, R78). -/

namespace Sys2Proof.Machine

/-- One access to the memory array. -/
inductive Access where
  /-- `MemRead(addr, 1)`. -/
  | read (addr : Addr)
  /-- `MemWrite(addr, 1, v)`, which the memory controller may discard (R37). -/
  | write (addr : Addr) (v : Byte)
  deriving DecidableEq, Repr

/-- The access the next cycle-step from `s` makes: the table of R78, row by row. -/
def State.access (s : State) : Option Access :=
  match s.phase with
  | .fetch   => some (.read s.pc)
  | .settle  => some (.read s.pc)
  | .decode  =>
    match dispatchTable s.ir with
    | some .lda => some (.read s.pc)
    | some .sta => some (.read s.pc)
    | some .sei => none
    | some .cld => none
    | none      => none
  | .operand =>
    match dispatchTable s.ir with
    | some .lda => some (.read (s.pc + 1#16))
    | some .sta => if s.rem = 1 then some (.read (s.pc + 1#16)) else some (.write (joinBytes s.oplo s.dl) s.a)
    | some .sei => none
    | some .cld => none
    | none      => none
  | .halted  => none

end Sys2Proof.Machine
end

