-- ==== Sys2Proof/Machine/Clock.lean ====
section
/-! DEFINITION. The Clock (45_clock.md): an ordered list of executors, and `tick()`, which gives each of them one
cycle-step. This hardware registers one executor (R93); the rules are stated for a list, and so is the model. Each CPU
executor has its own memory (decision D19; log entry 13, DEDUCED). -/

namespace Sys2Proof.Machine

/-- The Clock (R92): its executors in registration order, and no other state (R32). -/
structure Clock where
  executors : List State
  deriving DecidableEq, Repr

/-- What `tick()` answers. -/
inductive TickResult where
  /-- Every cycle-step was given; the failures reported to the caller (R98), each with the executor's place in the
  registration order, are in the list: none when no executor failed. -/
  | ticked (clock : Clock) (failures : List (Nat × FaultRecord))
  /-- The precondition of R99 is violated: some executor may not be stepped. Nothing happens. -/
  | refused
  deriving DecidableEq, Repr

/-- Whether an executor may be given a cycle-step: one that is halted may not (R99, R106). -/
def State.steppable (s : State) : Bool :=
  match step s with
  | .next _    => true
  | .fault _   => true
  | .refused _ => false

/-- The loop of `tick()` (R94), from the executor in place `k` on, in registration order. After one that fails, the rest
get their cycle-step or not as `FAIL_TICK_COMPLETES` says (R98); either way the failure does not touch them. -/
def tickFrom (k : Nat) : List State → List State × List (Nat × FaultRecord)
  | []        => ([], [])
  | s :: rest =>
    match step s with
    | .next t => (t :: (tickFrom (k + 1) rest).1, (tickFrom (k + 1) rest).2)
    | .fault (.unimplementedOpcode opcode fetchedAt left) =>
      if Config.failTickCompletes then
        (left :: (tickFrom (k + 1) rest).1, (k, ⟨opcode, fetchedAt⟩) :: (tickFrom (k + 1) rest).2)
      else (left :: rest, [(k, ⟨opcode, fetchedAt⟩)])
    | .refused _ => (s :: (tickFrom (k + 1) rest).1, (tickFrom (k + 1) rest).2)

/-- `tick()` (R94): "advances every registered executor by exactly one cycle-step, in registration order, once each".
Its precondition is that no executor is halted (R99). -/
def Clock.tick (c : Clock) : TickResult :=
  if c.executors.all State.steppable then
    .ticked ⟨(tickFrom 0 c.executors).1⟩ (tickFrom 0 c.executors).2
  else .refused

/-- `n` ticks, the caller ceasing after the first tick that reports a failure or is refused (R99, R100). -/
def Clock.ticks : Nat → Clock → TickResult
  | 0, c     => .ticked c []
  | k + 1, c =>
    match c.tick with
    | .ticked c' []          => Clock.ticks k c'
    | .ticked c' (f :: more) => .ticked c' (f :: more)
    | .refused               => .refused

end Sys2Proof.Machine
end

