-- ==== Sys2Proof/Machine/Reset.lean ====
section
/-! DEFINITION. `Reset(image)` (70_reset_and_hazards.md): the construction of a machine from an image, for every image and
for every value of what the spec leaves unspecified at reset. -/

namespace Sys2Proof.Machine

/-- The OPEN parameters of reset (R6): `A_RESET`, `X_RESET`, `Y_RESET`, `S_RESET` (R17), `Z_RESET`, `N_RESET`, `D_RESET`,
`I_RESET` (R24), and the latches that are not live at reset (R31). A claim about reset holds for every one of them. -/
structure ResetDraw where
  a : Byte
  x : Byte
  y : Byte
  s : Byte
  z : Bool
  n : Bool
  d : Bool
  i : Bool
  ir : Byte
  dl : Byte
  oplo : Byte
  rem : Fin 2
  deriving DecidableEq, Repr

/-- The engine as steps (2) to (4) of R118 construct it: every byte of the array zero, the image loaded, then `PC` read
from the loaded image's vector (R119), `PHASE = FETCH` and no fault. -/
def engineAtReset (draw : ResetDraw) (image : List Byte) : State where
  a := draw.a
  x := draw.x
  y := draw.y
  s := draw.s
  pc := (Memory.loadImage [] image).readWord Config.resetVector
  z := draw.z
  n := draw.n
  d := draw.d
  i := draw.i
  phase := .fetch
  ir := draw.ir
  dl := draw.dl
  oplo := draw.oplo
  rem := draw.rem
  fault := none
  mem := Memory.loadImage [] image

/-- The two outcomes of reset (R10, R117). -/
inductive ResetOutcome where
  /-- A machine: the Clock with the engine's executor as its only entry (R118 step 5). -/
  | constructed (clock : Clock)
  /-- The fatal `MalformedImage` error, with the offending size; no machine exists (R110). -/
  | malformedImage (size : Nat)
  deriving DecidableEq, Repr

/-- `Reset(image)` (R117, R118): the image's length is checked before anything is constructed. -/
def resetMachine (draw : ResetDraw) (image : List Byte) : ResetOutcome :=
  if imageWf image then .constructed ⟨[engineAtReset draw image]⟩ else .malformedImage image.length

end Sys2Proof.Machine
end

