-- ==== Sys2Proof/Machine/Whole.lean ====
section
/-! DEFINITION. The instructions as wholes (R83, R85, R88, R90) over what a program can see, and instruction boundaries
(R82). The cycle-steps of `Machine/Step.lean` are the machine; this is what they amount to, instruction by instruction. -/

namespace Sys2Proof.Machine

/-- The state without the sequencer's latches. `pc` is `a`, the address of the next instruction's opcode byte. -/
structure Arch where
  a : Byte
  x : Byte
  y : Byte
  s : Byte
  pc : Addr
  z : Bool
  n : Bool
  d : Bool
  i : Bool
  mem : Memory
  deriving DecidableEq, Repr

/-- The executor rests at an instruction boundary (R82): phase `FETCH`, `SETTLE` or `DECODE`, where in `DECODE` the
opcode in `IR` is the byte at `PC - 1`. -/
def State.atBoundary (t : State) : Bool :=
  match t.phase with
  | .fetch   => true
  | .settle  => true
  | .decode  => t.ir == t.load (t.pc - 1#16)
  | .operand => false
  | .halted  => false

/-- What a program can see of a state at a boundary. In phase `DECODE` the next instruction's opcode byte has been
fetched and `PC` is one past it (R19). -/
def State.arch (t : State) : Arch where
  a := t.a
  x := t.x
  y := t.y
  s := t.s
  pc := if t.phase = .decode then t.pc - 1#16 else t.pc
  z := t.z
  n := t.n
  d := t.d
  i := t.i
  mem := t.mem

/-- LDA immediate as a whole (R83). -/
def wholeLda (imm : Byte) (p : Arch) : Arch :=
  { p with a := imm, z := isZero imm, n := isNegative imm, pc := p.pc + 2#16 }

/-- STA absolute as a whole (R85). -/
def wholeSta (addr : Addr) (p : Arch) : Arch :=
  { p with mem := p.mem.writeByte addr.toNat p.a, pc := p.pc + 3#16 }

/-- SEI as a whole (R88). -/
def wholeSei (p : Arch) : Arch := { p with i := true, pc := p.pc + 1#16 }

/-- CLD as a whole (R90). -/
def wholeCld (p : Arch) : Arch := { p with d := false, pc := p.pc + 1#16 }

/-- An instruction as a whole. -/
def whole : Instr → Arch → Arch
  | .lda imm, p  => wholeLda imm p
  | .sta addr, p => wholeSta addr p
  | .sei, p      => wholeSei p
  | .cld, p      => wholeCld p

/-- The bytes at the program counter: `b0`, `b1`, `b2` of R53, addresses modulo 65536. -/
def Arch.bytes (p : Arch) : List Byte :=
  [p.mem.readByte p.pc.toNat, p.mem.readByte (p.pc + 1#16).toNat, p.mem.readByte (p.pc + 2#16).toNat]

/-- One instruction as a whole, or the unimplemented-opcode failure with its record (R101, R102). -/
def wholeStep (p : Arch) : Except FaultRecord Arch :=
  match decode p.bytes with
  | .ok (i, _) => .ok (whole i p)
  | .error _   => .error ⟨p.mem.readByte p.pc.toNat, p.pc⟩

/-- `k` instructions as wholes. -/
def wholeSteps : Nat → Arch → Except FaultRecord Arch
  | 0, p     => .ok p
  | k + 1, p =>
    match wholeStep p with
    | .ok q    => wholeSteps k q
    | .error r => .error r

end Sys2Proof.Machine
end

