-- ==== Sys2Proof/Safety.lean ====
section
/-! DEFINITION. What claims call a good state: the reachable shapes of R30, the latches against the bytes they were read
from (R19), the canonical form of memory, and the unbacked region (R47). -/

namespace Sys2Proof.Machine

/-- R30: the seven shapes, one of which holds after reset and any number of cycle-steps. -/
def State.shaped (t : State) : Bool :=
  match t.phase with
  | .fetch   => t.fault == none
  | .decode  => t.fault == none
  | .operand => t.fault == none
      && ((t.ir == 0xA9#8 && t.rem == 0) || (t.ir == 0x8D#8 && t.rem == 1) || (t.ir == 0x8D#8 && t.rem == 0))
  | .settle  => t.fault == none && (t.ir == 0x8D#8 || t.ir == 0x78#8 || t.ir == 0xD8#8)
  | .halted  => t.ir != 0xA9#8 && t.ir != 0x8D#8 && t.ir != 0x78#8 && t.ir != 0xD8#8
      && t.fault == some ⟨t.ir, t.pc - 1#16⟩

/-- The live latches hold the bytes at the addresses R19 gives: in `DECODE` the opcode is at `PC - 1`; in `OPERAND` the
byte in `DL` is at `PC`, and the opcode and `OPLO` lie before it. -/
def State.latchesFresh (t : State) : Bool :=
  match t.phase with
  | .fetch   => true
  | .decode  => t.ir == t.load (t.pc - 1#16)
  | .operand => t.dl == t.load t.pc
      && (if t.ir = 0x8D#8 ∧ t.rem = 0 then
            t.oplo == t.load (t.pc - 1#16) && t.ir == t.load (t.pc - 2#16)
          else t.ir == t.load (t.pc - 1#16))
  | .settle  => true
  | .halted  => t.ir == t.load (t.pc - 1#16)

/-- R47: every byte of `0x8000..0xBFFF` reads `0x00`. -/
def Memory.UnbackedBlank (m : Memory) : Prop :=
  ∀ a : Nat, 0x8000 ≤ a → a < 0xC000 → m.readByte a = 0x00#8

/-- The invariant of every reachable state. -/
structure State.Inv (t : State) : Prop where
  shape    : t.shaped = true
  fresh    : t.latchesFresh = true
  memForm  : t.mem.wf = true
  unbacked : t.mem.UnbackedBlank

/-- R129: the executor "has gone wrong": it rests in `DECODE` with an unregistered byte in `IR`, and the next cycle-step
can only fail. -/
def State.doomed (t : State) : Bool := t.phase == .decode && dispatchTable t.ir == none

end Sys2Proof.Machine
end

