-- ==== Sys2Proof/Certificates/Slice0/Obligations.lean ====
section
/-! DEFINITION. The statements for the provers, from the spec's numbered rules. A rule that the spec marks `[derived]` or
`[decision]` is the spec's own inference: a statement that rests on one says so. -/

open Sys2Proof Sys2Proof.Machine

/-! ### Encoding -/

/-- Decode inverts encode, for every instruction, operand and bytes that follow (30_encoding.md sections 1 to 3). Every
instruction is well formed (R60). -/
def Obligations.DecodeInvertsEncode : Prop :=
  ∀ (i : Instr) (rest : List Byte), decode (encode i ++ rest) = .ok (i, rest)

/-- Bytes that decode are the encoding of what they decode to: each word has one meaning, and no byte is dropped. -/
def Obligations.DecodedBytesAreTheEncoding : Prop :=
  ∀ (bs rest : List Byte) (i : Instr), decode bs = .ok (i, rest) → bs = encode i ++ rest

/-- The only encodings the source writes out (95_test_vectors.md S11), and neighbours of the registered values (V5). -/
def Obligations.WrittenOutWordsDecode : Prop :=
  decode [0b10101001#8, 0x42#8] = .ok (.lda 0x42#8, []) ∧
  decode [0b10001101#8, 0x00#8, 0x00#8] = .ok (.sta 0x0000#16, []) ∧
  decode [0b10001101#8, 0x34#8, 0x12#8] = .ok (.sta 0x1234#16, []) ∧
  decode [0b01111000#8] = .ok (.sei, []) ∧
  decode [0b11011000#8] = .ok (.cld, []) ∧
  decode [0xAA#8, 0x42#8] = .error (.unimplemented 0xAA#8)

/-- The fields of the instruction word `w` (30_encoding.md section 1): the opcode in bits 7:0, `imm8` or `lo` in bits
15:8, `hi` in bits 23:16. -/
def Obligations.TableWordFieldsAreRead : Prop :=
  (∀ imm : Byte, decodeTableWord 16 (0xA9 + 256 * imm.toNat) = some (.lda imm)) ∧
  (∀ lo hi : Byte, decodeTableWord 24 (0x8D + 256 * lo.toNat + 65536 * hi.toNat) =
    some (.sta (BitVec.ofNat 16 (lo.toNat + 256 * hi.toNat)))) ∧
  decodeTableWord 8 0x78 = some .sei ∧ decodeTableWord 8 0xD8 = some .cld

/-- R59. Every opcode byte outside the four is unimplemented, in exactly the ranges the rule lists, `0x00` (the content of
all memory the image does not cover) among them. It is fetched like any opcode, and not refused; the next cycle-step fails,
also after the fetch that ends an LDA; and what the failure leaves has no next state ever after. -/
def Obligations.UnregisteredOpcodeIsAHardStop : Prop :=
  (∀ b : Byte, dispatchTable b = none ↔
    b.toNat ≤ 0x77 ∨ (0x79 ≤ b.toNat ∧ b.toNat ≤ 0x8C) ∨ (0x8E ≤ b.toNat ∧ b.toNat ≤ 0xA8) ∨
    (0xAA ≤ b.toNat ∧ b.toNat ≤ 0xD7) ∨ 0xD9 ≤ b.toNat) ∧
  dispatchTable Config.blankByte = none ∧
  (∀ b : Byte, b ≠ 0xA9#8 → b ≠ 0x8D#8 → b ≠ 0x78#8 → b ≠ 0xD8#8 →
    (∀ rest : List Byte, decode (b :: rest) = .error (.unimplemented b)) ∧
    (∀ s : State, (s.phase = .fetch ∨ s.phase = .settle) → s.mem.readByte s.pc.toNat = b →
      ∃ u : State, step s = .next u ∧ u.phase = .decode ∧ u.ir = b) ∧
    (∀ u : State, u.phase = .decode → u.ir = b →
      ∃ (opcode : Byte) (fetchedAt : Addr) (left : State),
        step u = .fault (.unimplementedOpcode opcode fetchedAt left) ∧
        ∀ (k : Nat) (t : State), steps (k + 1) left ≠ .next t))

/-! ### Memory controller -/

/-- The byte read masks its address, and the word read is two of them, the low byte at the lower address, also from
`0xFFFF` (20_memory.md section 2, R35 and R36). -/
def Obligations.WordReadIsLittleEndian : Prop :=
  (∀ (m : Memory) (a : Nat), m.readByte (a + 65536) = m.readByte a) ∧
  (∀ (m : Memory) (a : Nat), (m.readWord a).toNat = (m.readByte a).toNat + 256 * (m.readByte (a + 1)).toNat) ∧
  (∀ m : Memory, (m.readWord 0xFFFF).toNat = (m.readByte 0xFFFF).toNat + 256 * (m.readByte 0x0000).toNat)

/-- A program's write stores below `0x8000` and is silently discarded from `0x8000` up: the byte written reads back, or
nothing changes, and every other byte reads as before (R37, 20_memory.md section 2). The STA that made a discarded write
goes on as if it had stored: no fault, and no part of the state but memory tells the two apart. That the storing
cycle-step is the one in phase `OPERAND` with `REM = 0`, advances `PC` by one and ends in `SETTLE` is R76 (derived;
decision D1, log entry 7). -/
def Obligations.ProgramWriteObeysProtection : Prop :=
  (∀ (m : Memory) (a b : Nat) (v : Byte), m.wf = true → b < 65536 →
    (m.writeByte a v).readByte b = if b = a ∧ a < 0x8000 then v else m.readByte b) ∧
  (∀ (m : Memory) (a : Nat) (v : Byte), 0x8000 ≤ a → m.writeByte a v = m) ∧
  (∀ (s : State) (addr : Addr), s.phase = .operand → s.rem = 0 → 0x8000 ≤ addr.toNat →
    exec (.sta addr) s = .next { s with pc := s.pc + 1#16, phase := .settle }) ∧
  (∀ (s : State) (addr : Addr), s.phase = .operand → s.rem = 0 → addr.toNat < 0x8000 →
    exec (.sta addr) s =
      .next { s with pc := s.pc + 1#16, phase := .settle, mem := s.mem.setCell addr.toNat s.a })

/-- Two memories in the canonical form (log entry 6, the model's choice of representation) that read alike at every address are
the same data. -/
def Obligations.CanonicalMemoriesReadingAlikeAreEqual : Prop :=
  ∀ m m' : Memory, m.wf = true → m'.wf = true → (∀ a : Nat, a < 65536 → m.readByte a = m'.readByte a) → m = m'

/-! ### Flag logic -/

/-- R87. `UpdateFromResult` over every byte: its truth table, the byte returned, and nothing but `Z` and `N` written. -/
def Obligations.UpdateFromResultDerivesZeroAndNegative : Prop :=
  ∀ (v : Byte) (s : State),
    updateFromResult v s = (v, { s with z := decide (v = 0x00#8), n := v.getLsbD 7 }) ∧
    (v.toNat = 0 → (updateFromResult v s).2.z = true ∧ (updateFromResult v s).2.n = false) ∧
    (0x01 ≤ v.toNat → v.toNat ≤ 0x7F → (updateFromResult v s).2.z = false ∧ (updateFromResult v s).2.n = false) ∧
    (0x80 ≤ v.toNat → (updateFromResult v s).2.z = false ∧ (updateFromResult v s).2.n = true)

/-! ### Reset -/

/-- R119. `PC` at reset is the little-endian vector of the loaded image, and every 16-bit value is a legal vector. -/
def Obligations.ResetLoadsTheVector : Prop :=
  (∀ (draw : ResetDraw) (image : List Byte), image.length = 16384 →
    ∃ s : State, resetMachine draw image = .constructed ⟨[s]⟩ ∧
      s.pc.toNat = (s.mem.readByte 0xFFFC).toNat + 256 * (s.mem.readByte 0xFFFD).toNat ∧
      s.mem.readByte 0xFFFC = image.getD 0x3FFC 0x00#8 ∧ s.mem.readByte 0xFFFD = image.getD 0x3FFD 0x00#8) ∧
  (∀ (draw : ResetDraw) (v : Addr), ∃ (image : List Byte) (s : State),
    resetMachine draw image = .constructed ⟨[s]⟩ ∧ s.pc = v)

/-- R120. Reset takes no cycle-step: it leaves the executor in phase `FETCH`, and the first tick is the first opcode
fetch, at the vector's value. -/
def Obligations.FirstTickFetchesAtTheVector : Prop :=
  ∀ (draw : ResetDraw) (image : List Byte), image.length = 16384 →
    ∃ s u : State, resetMachine draw image = .constructed ⟨[s]⟩ ∧ s.phase = .fetch ∧
      s.pc = s.mem.readWord 0xFFFC ∧ Clock.tick ⟨[s]⟩ = .ticked ⟨[u]⟩ [] ∧
      u.phase = .decode ∧ u.ir = s.mem.readByte (s.mem.readWord 0xFFFC).toNat

/-- The whole state after reset (R33, 10_state.md section 7), every component of the tuple, for every value of what is
unspecified there: the draw's values are kept as they are, `PC` is the vector's value, no fault, and the memory map of
20_memory.md section 4. The zeros below `0x8000` are decision D5 (log entry 5). -/
def Obligations.ResetStateIsTheTuple : Prop :=
  ∀ (draw : ResetDraw) (image : List Byte), image.length = 16384 →
    ∃ s : State, resetMachine draw image = .constructed ⟨[s]⟩ ∧
      s.a = draw.a ∧ s.x = draw.x ∧ s.y = draw.y ∧ s.s = draw.s ∧
      s.z = draw.z ∧ s.n = draw.n ∧ s.d = draw.d ∧ s.i = draw.i ∧
      s.ir = draw.ir ∧ s.dl = draw.dl ∧ s.oplo = draw.oplo ∧ s.rem = draw.rem ∧
      s.pc = s.mem.readWord 0xFFFC ∧ s.phase = .fetch ∧ s.fault = none ∧
      (∀ k : Nat, k < 0xC000 → s.mem.readByte k = 0x00#8) ∧
      (∀ k : Nat, k < 16384 → s.mem.readByte (0xC000 + k) = image.getD k 0x00#8)

/-- The image's length alone decides whether a machine is constructed, and the error reports the offending length
(60_exceptions.md section 3; the exact length is decision D11). -/
def Obligations.OnlyAFullLengthImageConstructs : Prop :=
  ∀ (draw : ResetDraw) (image : List Byte),
    ((∃ c : Clock, resetMachine draw image = .constructed c) ↔ image.length = 16384) ∧
    (image.length ≠ 16384 → resetMachine draw image = .malformedImage image.length)

/-- The invariant holds of the machine reset constructs, for every image and every draw, and of `State.reset`. -/
def Obligations.ResetEstablishesTheInvariant : Prop :=
  State.reset.Inv ∧
  ∀ (draw : ResetDraw) (image : List Byte), image.length = 16384 → (engineAtReset draw image).Inv

/-! ### Cycle-steps -/

/-- When the bytes of the instruction in flight decode to `i`, a step is `exec i`: at `FETCH` and `SETTLE` they are the
bytes at `PC`; at `DECODE` the opcode in `IR` and the bytes at `PC`; at `OPERAND` the bytes already read are those in the
latches (40_sequencer.md sections 1 to 3; log entry 11). -/
def Obligations.StepRunsTheDecodedInstruction : Prop :=
  ∀ (s : State) (i : Instr) (rest : List Byte),
    ((s.phase = .fetch ∨ s.phase = .settle) →
      decode [s.load s.pc, s.load (s.pc + 1#16), s.load (s.pc + 2#16)] = .ok (i, rest) → step s = exec i s) ∧
    (s.phase = .decode →
      decode [s.ir, s.load s.pc, s.load (s.pc + 1#16)] = .ok (i, rest) → step s = exec i s) ∧
    (s.phase = .operand → s.rem = 1 →
      decode [s.ir, s.dl, s.load (s.pc + 1#16)] = .ok (i, rest) → step s = exec i s) ∧
    (s.phase = .operand → s.rem = 0 → s.ir = 0x8D#8 →
      decode [s.ir, s.oplo, s.dl] = .ok (i, rest) → step s = exec i s) ∧
    (s.phase = .operand → s.rem = 0 → s.ir ≠ 0x8D#8 →
      decode [s.ir, s.dl] = .ok (i, rest) → step s = exec i s)

/-- The interface's stand-in for a loaded program (log entry 1, the model's choice): `withFetchWord` puts the word's instruction where
the very next step takes it from, and that step is `exec` of it. -/
def Obligations.FetchWordIsWhatTheNextStepRuns : Prop :=
  ∀ (s : State) (nbits w : Nat) (i : Instr), s.mem.wf = true → decodeTableWord nbits w = some i →
    ∃ rest : List Byte,
      decode [(s.withFetchWord nbits w).load s.pc, (s.withFetchWord nbits w).load (s.pc + 1#16),
        (s.withFetchWord nbits w).load (s.pc + 2#16)] = .ok (i, rest) ∧
      step (s.withFetchWord nbits w) = exec i (s.withFetchWord nbits w) ∧
      ∃ u : State, step (s.withFetchWord nbits w) = .next u ∧ u.ir = i.op.row.pattern

/-- The cycle-step in phase `FETCH` or `SETTLE` (R72, derived; decision D1, log entry 7). -/
def Obligations.OpcodeFetchCycle : Prop :=
  ∀ s : State, (s.phase = .fetch ∨ s.phase = .settle) →
    step s = .next { s with ir := s.mem.readByte s.pc.toNat, pc := s.pc + 1#16, phase := .decode }

/-- The cycle-step in phase `DECODE` for the registered opcodes (R73, derived; decision D1, log entry 7): the first operand byte is
read and `PC` is not advanced, or the flag changes at once. -/
def Obligations.DispatchCycle : Prop :=
  ∀ s : State, s.phase = .decode →
    (s.ir = 0xA9#8 → step s = .next { s with dl := s.mem.readByte s.pc.toNat, rem := 0, phase := .operand }) ∧
    (s.ir = 0x8D#8 → step s = .next { s with dl := s.mem.readByte s.pc.toNat, rem := 1, phase := .operand }) ∧
    (s.ir = 0x78#8 → step s = .next { s with i := true, phase := .settle }) ∧
    (s.ir = 0xD8#8 → step s = .next { s with d := false, phase := .settle })

/-- The cycle-step that ends LDA, fused with the next opcode fetch: `PC` advances by two (R74, derived; decision D1, log entry 7). -/
def Obligations.LdaEffectCycle : Prop :=
  ∀ s : State, s.phase = .operand → s.ir = 0xA9#8 →
    step s = .next { s with a := s.dl, z := decide (s.dl = 0x00#8), n := s.dl.getLsbD 7,
                            ir := s.mem.readByte (s.pc + 1#16).toNat, pc := s.pc + 2#16, phase := .decode }

/-- The two cycle-steps of STA in phase `OPERAND` (R75 and R76, derived; decision D1, log entry 7): the low byte is delivered and the
high byte read; then the store at `OPLO + 256 * DL`. -/
def Obligations.StaOperandAndStoreCycles : Prop :=
  ∀ s : State, s.phase = .operand → s.ir = 0x8D#8 →
    (s.rem = 1 →
      step s = .next { s with oplo := s.dl, dl := s.mem.readByte (s.pc + 1#16).toNat, rem := 0, pc := s.pc + 1#16 }) ∧
    (s.rem = 0 →
      step s = .next { s with mem := s.mem.writeByte (s.oplo.toNat + 256 * s.dl.toNat) s.a, pc := s.pc + 1#16,
                              phase := .settle })

/-- R101. A cycle-step fails exactly when it is taken in phase `DECODE` with an unregistered opcode in `IR`: any of them,
fetched from any address. The cycle-step that fetched the byte completed normally, and the failing one makes no memory
access. -/
def Obligations.FailureRaisedExactlyByUnregisteredDispatch : Prop :=
  (∀ s : State, (∃ f : Fault, step s = .fault f) ↔
    s.phase = .decode ∧ s.ir ≠ 0xA9#8 ∧ s.ir ≠ 0x8D#8 ∧ s.ir ≠ 0x78#8 ∧ s.ir ≠ 0xD8#8) ∧
  (∀ (s left : State) (opcode : Byte) (fetchedAt : Addr),
    step s = .fault (.unimplementedOpcode opcode fetchedAt left) → s.access = none ∧ left.mem = s.mem) ∧
  (∀ s : State, (s.phase = .fetch ∨ s.phase = .settle) →
    ∃ u : State, step s = .next u ∧ u.phase = .decode ∧ u.ir = s.mem.readByte s.pc.toNat)

/-- What the failure records and leaves (60_exceptions.md section 1; R102 and R103 rest on decision D8, log entry 8):
the opcode, the address it was fetched from, `PC` still advanced, everything else as it was; and the halt is permanent,
every later cycle-step being refused (decision D7, log entry 9). -/
def Obligations.FailureIsPreciseAndPermanent : Prop :=
  ∀ s : State, s.phase = .decode → dispatchTable s.ir = none →
    ∃ left : State, step s = .fault (.unimplementedOpcode s.ir (s.pc - 1#16) left) ∧
      left = { s with phase := .halted, fault := some ⟨s.ir, s.pc - 1#16⟩ } ∧
      ∀ k : Nat, steps (k + 1) left = .refused .executorHalted

/-- A halted executor is given no cycle-step, whatever its latches hold and whatever instruction is asked of it
(R77 and R106; decision D7, log entry 9). -/
def Obligations.HaltedExecutorIsRefused : Prop :=
  ∀ s : State, s.phase = .halted → step s = .refused .executorHalted ∧
    ∀ i : Instr, exec i s = .refused .executorHalted

/-! ### The instructions: completion, result and frame -/

/-- LDA immediate answers a next state in every phase it rests in (R83 cycle by cycle, 41_load_store.md section 1; the
schedule is decision D1, log entry 7). -/
def Obligations.LdaCompletes : Prop :=
  ∀ (imm : Byte) (s : State),
    ((s.phase = .fetch ∨ s.phase = .settle) → exec (.lda imm) s =
      .next { s with ir := s.mem.readByte s.pc.toNat, pc := s.pc + 1#16, phase := .decode }) ∧
    (s.phase = .decode → exec (.lda imm) s = .next { s with dl := imm, rem := 0, phase := .operand }) ∧
    (s.phase = .operand → exec (.lda imm) s =
      .next { s with a := imm, z := decide (imm = 0x00#8), n := decide (0x80 ≤ imm.toNat),
                     ir := s.mem.readByte (s.pc + 1#16).toNat, pc := s.pc + 2#16, phase := .decode })

/-- STA absolute answers a next state in every phase it rests in (R85 cycle by cycle, 41_load_store.md section 2; the
schedule is decision D1, log entry 7). -/
def Obligations.StaCompletes : Prop :=
  ∀ (addr : Addr) (s : State),
    ((s.phase = .fetch ∨ s.phase = .settle) → exec (.sta addr) s =
      .next { s with ir := s.mem.readByte s.pc.toNat, pc := s.pc + 1#16, phase := .decode }) ∧
    (s.phase = .decode → exec (.sta addr) s =
      .next { s with dl := BitVec.ofNat 8 (addr.toNat % 256), rem := 1, phase := .operand }) ∧
    (s.phase = .operand → s.rem = 1 → exec (.sta addr) s =
      .next { s with oplo := BitVec.ofNat 8 (addr.toNat % 256), dl := BitVec.ofNat 8 (addr.toNat / 256), rem := 0,
                     pc := s.pc + 1#16 }) ∧
    (s.phase = .operand → s.rem = 0 → exec (.sta addr) s =
      .next { s with mem := s.mem.writeByte addr.toNat s.a, pc := s.pc + 1#16, phase := .settle })

/-- SEI and CLD answer a next state in every phase they rest in, the flag changing at once (R88 and R90 cycle by cycle,
42_flag_ops.md sections 2 and 3). They have no operand, so a state in phase `OPERAND`, which no run of theirs reaches, is
no suspension point of them: there they stop by name (log entry 10, the model's choice). -/
def Obligations.SeiAndCldComplete : Prop :=
  ∀ s : State,
    ((s.phase = .fetch ∨ s.phase = .settle) →
      exec .sei s = .next { s with ir := s.mem.readByte s.pc.toNat, pc := s.pc + 1#16, phase := .decode } ∧
      exec .cld s = .next { s with ir := s.mem.readByte s.pc.toNat, pc := s.pc + 1#16, phase := .decode }) ∧
    (s.phase = .decode → exec .sei s = .next { s with i := true, phase := .settle } ∧
      exec .cld s = .next { s with d := false, phase := .settle }) ∧
    (s.phase = .operand → exec .sei s = .refused .noSuspensionPoint ∧ exec .cld s = .refused .noSuspensionPoint)

/-- What LDA, SEI and CLD leave unchanged in any cycle-step: `X`, `Y`, `S`, the fault record, `OPLO` and every byte of
memory; `A`, `Z`, `N` but for LDA's effect; `D` but for CLD's; `I` but for SEI's. -/
def Obligations.RegisterInstructionsFrame : Prop :=
  ∀ (i : Instr) (s t : State), (∀ addr : Addr, i ≠ .sta addr) → exec i s = .next t →
    t.x = s.x ∧ t.y = s.y ∧ t.s = s.s ∧ t.fault = s.fault ∧ t.oplo = s.oplo ∧
    (∀ b : Nat, t.mem.readByte b = s.mem.readByte b) ∧
    (¬ (i.op = .lda ∧ s.phase = .operand) → t.a = s.a ∧ t.z = s.z ∧ t.n = s.n) ∧
    (¬ (i = .cld ∧ s.phase = .decode) → t.d = s.d) ∧
    (¬ (i = .sei ∧ s.phase = .decode) → t.i = s.i)

/-- What STA leaves unchanged in any cycle-step: every register and flag, the fault record, and every byte of memory but
the one at its operand address, in the cycle-step that stores, when that address is below `0x8000`. -/
def Obligations.StaFrame : Prop :=
  ∀ (addr : Addr) (s t : State), s.mem.wf = true → exec (.sta addr) s = .next t →
    t.a = s.a ∧ t.x = s.x ∧ t.y = s.y ∧ t.s = s.s ∧ t.z = s.z ∧ t.n = s.n ∧ t.d = s.d ∧ t.i = s.i ∧
    t.fault = s.fault ∧
    (s.phase = .operand ∧ s.rem = 0 →
      (∀ b : Nat, b < 65536 → b ≠ addr.toNat → t.mem.readByte b = s.mem.readByte b) ∧
      t.mem.readByte addr.toNat = if addr.toNat < 0x8000 then s.a else s.mem.readByte addr.toNat) ∧
    (¬ (s.phase = .operand ∧ s.rem = 0) → ∀ b : Nat, t.mem.readByte b = s.mem.readByte b)

/-! ### The machine as a whole -/

/-- The invariant (the shapes of R30, derived; the latches against the bytes they were read from, R19, derived; memory in
the canonical form; the unbacked region blank) is kept by every cycle-step, the failing one included. Phase `FETCH` is
reached only at reset, and `HALTED` only by the failure. -/
def Obligations.EveryStepKeepsTheInvariant : Prop :=
  ∀ s : State, s.Inv →
    (∀ t : State, step s = .next t → t.Inv ∧ t.phase ≠ .fetch ∧ t.phase ≠ .halted) ∧
    (∀ (opcode : Byte) (fetchedAt : Addr) (left : State),
      step s = .fault (.unimplementedOpcode opcode fetchedAt left) → left.Inv ∧ left.phase = .halted)

/-- Progress: from a good state that is not halted a cycle-step is never refused. It fails when the state is doomed
(R129, derived), and otherwise answers a next state. -/
def Obligations.GoodStatesAreSteppable : Prop :=
  ∀ s : State, s.Inv → s.phase ≠ .halted →
    (s.doomed = true → ∃ f : Fault, step s = .fault f) ∧ (s.doomed = false → ∃ t : State, step s = .next t)

/-- R47. Whatever the image, every byte of `0x8000..0xBFFF` reads `0x00` after reset and after any number of cycle-steps.
A cycle-step that ends in phase `DECODE` is one that fetched an opcode, from `PC - 1`: when that address is in the region,
the opcode is `0x00`, and the next cycle-step fails. -/
def Obligations.UnbackedRegionAlwaysReadsZero : Prop :=
  ∀ (draw : ResetDraw) (image : List Byte) (k : Nat) (s : State), image.length = 16384 →
    steps k (engineAtReset draw image) = .next s →
    (∀ b : Nat, 0x8000 ≤ b → b < 0xC000 → s.mem.readByte b = 0x00#8) ∧
    (∀ u : State, step s = .next u → u.phase = .decode →
      0x8000 ≤ (u.pc - 1#16).toNat → (u.pc - 1#16).toNat < 0xC000 →
      u.ir = 0x00#8 ∧ ∃ f : Fault, step u = .fault f)

/-- No program changes the protected region: over any number of cycle-steps every byte of `0x8000..0xFFFF` reads as
before (20_memory.md sections 2 and 5). -/
def Obligations.ProtectedRegionIsImmutable : Prop :=
  ∀ (k : Nat) (s t : State), s.mem.wf = true → steps k s = .next t →
    ∀ b : Nat, 0x8000 ≤ b → b < 65536 → t.mem.readByte b = s.mem.readByte b

/-- No cycle-step changes `X`, `Y` or `S`, clears `I` or sets `D` (10_state.md sections 1 and 3; R15, R16 and R23 are
derived), and `A`, `Z`, `N` change only in the cycle-step that ends an LDA, to the values of its operand byte, so that
`Z` and `N` then never hold together (R22, derived). That LDA's cycle-step in phase `OPERAND` is the one that writes them,
and no other, is R74 of 40_sequencer.md section 3 (derived; decision D1, log entry 7). -/
def Obligations.RegistersAndFlagsChangeOnlyAsGiven : Prop :=
  ∀ s t : State, step s = .next t →
    t.x = s.x ∧ t.y = s.y ∧ t.s = s.s ∧ (s.i = true → t.i = true) ∧ (s.d = false → t.d = false) ∧
    (s.phase = .operand ∧ s.ir = 0xA9#8 → t.a = s.dl ∧ (t.z = true ↔ s.dl = 0x00#8) ∧
      (t.n = true ↔ 0x80 ≤ s.dl.toNat) ∧ ¬ (t.z = true ∧ t.n = true)) ∧
    (¬ (s.phase = .operand ∧ s.ir = 0xA9#8) → t.a = s.a ∧ t.z = s.z ∧ t.n = s.n)

/-- How `PC` moves: never but forward by the bytes consumed, modulo 65536 (10_state.md section 2; the wrap is decision
D2, log entry 12). One in a fetch and in each cycle-step of STA after its first operand read, two in the cycle-step that
ends an LDA, none in a dispatch: which cycle-step makes which advance is the literal reading of the suspension points
(40_sequencer.md section 3; decision D1, log entry 7). -/
def Obligations.PcMovesOnlyForward : Prop :=
  ∀ s t : State, step s = .next t →
    (s.phase = .fetch ∨ s.phase = .settle → t.pc = s.pc + 1#16) ∧
    (s.phase = .decode → t.pc = s.pc) ∧
    (s.phase = .operand → s.ir = 0x8D#8 → t.pc = s.pc + 1#16) ∧
    (s.phase = .operand → s.ir = 0xA9#8 → t.pc = s.pc + 2#16)

/-- Memory changes in a cycle-step only by the write the access table of R78 (derived) gives it, and only below `0x8000`. -/
def Obligations.MemoryChangesOnlyByTheAccess : Prop :=
  ∀ s t : State, s.mem.wf = true → step s = .next t →
    (∀ (b : Addr) (v : Byte), s.access = some (.write b v) → ∀ c : Nat, c < 65536 →
      t.mem.readByte c = if c = b.toNat ∧ c < 0x8000 then v else s.mem.readByte c) ∧
    ((∀ (b : Addr) (v : Byte), s.access ≠ some (.write b v)) → t.mem = s.mem)

/-- A cycle-step depends on memory through the one byte its access reads (R78, derived) and on no other: put any other
memory under the executor that agrees on that byte, and it does the same, its write included. -/
def Obligations.StepDependsOnTheByteItReads : Prop :=
  ∀ (s : State) (m : Memory),
    (∀ b : Addr, s.access = some (.read b) → m.readByte b.toNat = s.mem.readByte b.toNat) →
    (∀ t : State, step s = .next t →
      ∃ m' : Memory, step { s with mem := m } = .next { t with mem := m' } ∧
        ((∀ (b : Addr) (v : Byte), s.access ≠ some (.write b v)) → m' = m) ∧
        (∀ (b : Addr) (v : Byte), s.access = some (.write b v) → m' = m.writeByte b.toNat v)) ∧
    (∀ (opcode : Byte) (fetchedAt : Addr) (left : State),
      step s = .fault (.unimplementedOpcode opcode fetchedAt left) →
      step { s with mem := m } = .fault (.unimplementedOpcode opcode fetchedAt { left with mem := m }))

/-- `X`, `Y`, `S` and the four flags influence nothing: two runs that start alike but for them stay alike but for them,
step by step, and fail alike, with the same record (10_state.md sections 1 and 3; R15, R16 and R23 are derived). -/
def Obligations.InertRegistersAndFlagsInfluenceNothing : Prop :=
  ∀ (k : Nat) (s : State) (x y sp : Byte) (z n d i : Bool),
    (∀ t : State, steps k s = .next t → ∃ (z' n' d' i' : Bool),
      steps k { s with x := x, y := y, s := sp, z := z, n := n, d := d, i := i } =
        .next { t with x := x, y := y, s := sp, z := z', n := n', d := d', i := i' }) ∧
    (∀ (opcode : Byte) (fetchedAt : Addr) (left : State),
      steps k s = .fault (.unimplementedOpcode opcode fetchedAt left) → ∃ left' : State,
        steps k { s with x := x, y := y, s := sp, z := z, n := n, d := d, i := i } =
          .fault (.unimplementedOpcode opcode fetchedAt left') ∧ left'.a = left.a ∧ left'.mem = left.mem)

/-- A byte stored by STA is seen by the very next opcode fetch (70_reset_and_hazards.md section 3; R126 is derived): with
the store at the address of the next opcode, the byte fetched is `A`, when the address is below `0x8000`. -/
def Obligations.StoreIsSeenByTheNextFetch : Prop :=
  ∀ s : State, s.mem.wf = true → s.phase = .operand → s.ir = 0x8D#8 → s.rem = 0 →
    joinBytes s.oplo s.dl = s.pc + 1#16 → (s.pc + 1#16).toNat < 0x8000 →
    ∃ u : State, steps 2 s = .next u ∧ u.phase = .decode ∧ u.ir = s.a ∧ u.pc = s.pc + 2#16

/-! ### Instructions as wholes -/

/-- From any boundary before an LDA at `a` (`a` is `s.arch.pc`), LDA loads the byte at `a + 1` into `A`, `Z` and `N`
follow from it, and the machine comes to the boundary before `a + 2` with nothing else a program can see changed. The
effect is that of R83 (41_load_store.md section 1); where the boundaries lie is R82 of 40_sequencer.md section 4 (derived;
decision D18, log entry 17). -/
def Obligations.LdaAsAWhole : Prop :=
  ∀ (s : State) (v : Byte), s.atBoundary = true →
    s.mem.readByte s.arch.pc.toNat = 0xA9#8 → s.mem.readByte (s.arch.pc + 1#16).toNat = v →
    ∃ (k : Nat) (u : State), steps k s = .next u ∧ u.atBoundary = true ∧
      u.arch = { s.arch with a := v, z := decide (v = 0x00#8), n := v.getLsbD 7, pc := s.arch.pc + 2#16 }

/-- When each part of LDA happens (R84, derived; decision D1, log entry 7). `t` is the state that the opcode fetch, cycle-step 1,
leaves, with `PC = a + 1`: after cycle-step 2 `A`, `Z` and `N` are still the old ones and `PC` is `a + 1`; cycle-step 3
writes them, fetches the next opcode, and leaves `PC = a + 3`. -/
def Obligations.LdaEffectLandsInTheThirdCycle : Prop :=
  ∀ s t : State, step s = .next t → t.phase = .decode → t.ir = 0xA9#8 →
    (∃ u : State, step t = .next u ∧ u.phase = .operand ∧ u.pc = t.pc ∧ u.a = t.a ∧ u.z = t.z ∧ u.n = t.n ∧
      u.dl = t.mem.readByte t.pc.toNat) ∧
    (∃ u : State, steps 2 t = .next u ∧ u.phase = .decode ∧ u.pc = t.pc + 2#16 ∧
      u.a = t.mem.readByte t.pc.toNat ∧ u.z = decide (u.a = 0x00#8) ∧ u.n = u.a.getLsbD 7 ∧
      u.ir = t.mem.readByte (t.pc + 1#16).toNat)

/-- From any boundary before an STA at `a` (`a` is `s.arch.pc`), STA writes `A` at the address whose low byte is at
`a + 1` and whose high byte is at `a + 2`, through the write protection, and the machine comes to the boundary before
`a + 3`; every register and flag is unchanged. The address may be that of the STA's own bytes. From phase `DECODE` the
opcode has been fetched, and three cycle-steps remain of the four. The effect is that of R85 (41_load_store.md section 2);
where the boundaries lie and the count left from `DECODE` are R82 of 40_sequencer.md section 4 (derived; decision D18, log
entry 17). -/
def Obligations.StaAsAWhole : Prop :=
  ∀ s : State, s.atBoundary = true → s.mem.readByte s.arch.pc.toNat = 0x8D#8 →
    ∃ u : State, steps (if s.phase = .decode then 3 else 4) s = .next u ∧ u.atBoundary = true ∧
      u.arch = { s.arch with
        mem := s.mem.writeByte
          ((s.mem.readByte (s.arch.pc + 1#16).toNat).toNat +
            256 * (s.mem.readByte (s.arch.pc + 2#16).toNat).toNat) s.a
        pc := s.arch.pc + 3#16 }

/-- From any boundary before an SEI at `a` (`a` is `s.arch.pc`), SEI sets `I`, whatever it was; before a CLD,
CLD clears `D`. Both come to the boundary before `a + 1` and change nothing else. From phase `DECODE` the opcode has been
fetched, and one cycle-step remains of the two. The effects are those of R88 and R90 (42_flag_ops.md sections 2 and 3); the
two cycle-steps are R89 and R91 (derived) and R130 (70_reset_and_hazards.md section 4); where the boundaries lie is R82 of
40_sequencer.md section 4 (derived; decision D18, log entry 17). -/
def Obligations.SeiAndCldAsWholes : Prop :=
  ∀ s : State, s.atBoundary = true →
    (s.mem.readByte s.arch.pc.toNat = 0x78#8 →
      ∃ u : State, steps (if s.phase = .decode then 1 else 2) s = .next u ∧ u.atBoundary = true ∧
        u.arch = { s.arch with i := true, pc := s.arch.pc + 1#16 }) ∧
    (s.mem.readByte s.arch.pc.toNat = 0xD8#8 →
      ∃ u : State, steps (if s.phase = .decode then 1 else 2) s = .next u ∧ u.atBoundary = true ∧
        u.arch = { s.arch with d := false, pc := s.arch.pc + 1#16 })

/-- R130. From its opcode fetch to the next instruction's opcode fetch an instruction takes 2 (LDA), 4 (STA), 2 (SEI) or
2 (CLD) cycle-steps, whatever its operands, addresses and flags, and any other opcode fails in the second tick. A
cycle-step that ends in phase `DECODE` is one that fetched an opcode, into `IR`, be it from phase `FETCH` or `SETTLE` or at
the end of an LDA: from the `t` it leaves, the next `c - 1` cycle-steps fetch no opcode, and the `c`-th does. -/
def Obligations.CycleCounts : Prop :=
  (∀ s : State, (s.phase = .fetch ∨ s.phase = .settle) →
    ∃ t : State, step s = .next t ∧ t.phase = .decode ∧ t.ir = s.mem.readByte s.pc.toNat) ∧
  (∀ (s t : State) (c : Nat), step s = .next t → t.phase = .decode →
    (t.ir, c) ∈ [(0xA9#8, 2), (0x8D#8, 4), (0x78#8, 2), (0xD8#8, 2)] →
    (∀ j : Nat, 1 ≤ j → j < c → ∃ u : State, steps j t = .next u ∧ u.phase ≠ .decode) ∧
    (∃ u : State, steps c t = .next u ∧ u.phase = .decode)) ∧
  (∀ s t : State, step s = .next t → t.phase = .decode → dispatchTable t.ir = none → ∃ f : Fault, step t = .fault f)

/-- The cycle-stepped machine refines the instruction-level one (R82 and R80; the boundaries are the spec's derivation, decision D18):
from any boundary, whatever `k` instructions as wholes come to, some number of cycle-steps, at most `4 * k + 1`, comes to
at a boundary; and if one of them is an unregistered opcode, the machine fails there with the same record. -/
def Obligations.CycleStepsRefineWholeInstructions : Prop :=
  ∀ (k : Nat) (s : State), s.atBoundary = true →
    (∀ p : Arch, wholeSteps k s.arch = .ok p →
      ∃ (c : Nat) (u : State), c ≤ 4 * k + 1 ∧ steps c s = .next u ∧ u.atBoundary = true ∧ u.arch = p) ∧
    (∀ r : FaultRecord, wholeSteps k s.arch = .error r →
      ∃ (c : Nat) (left : State), c ≤ 4 * k + 1 ∧
        steps c s = .fault (.unimplementedOpcode r.opcode r.fetchedAt left) ∧ left.fault = some r)

/-! ### The Clock -/

/-- With one executor a tick is one cycle-step of it (45_clock.md; R93), and its failure is reported with the record. -/
def Obligations.TickOfOneExecutorIsOneStep : Prop :=
  ∀ s : State,
    (∀ t : State, step s = .next t → Clock.tick ⟨[s]⟩ = .ticked ⟨[t]⟩ []) ∧
    (∀ (opcode : Byte) (fetchedAt : Addr) (left : State),
      step s = .fault (.unimplementedOpcode opcode fetchedAt left) →
        Clock.tick ⟨[s]⟩ = .ticked ⟨[left]⟩ [(0, ⟨opcode, fetchedAt⟩)]) ∧
    (∀ r : Refusal, step s = .refused r → Clock.tick ⟨[s]⟩ = .refused)

/-- R96. After `n` ticks each executor has received exactly `n` cycle-steps, for any number of executors in registration
order, as long as none has failed. -/
def Obligations.TicksGiveEveryExecutorTheSameSteps : Prop :=
  ∀ (k : Nat) (before after : List State),
    List.Forall₂ (fun s t => steps k s = .next t) before after → Clock.ticks k ⟨before⟩ = .ticked ⟨after⟩ []

/-- A tick in which one executor fails (45_clock.md; R98, decision D10, log entry 14): those registered before it have
been stepped, it is halted and reported, and those after it are stepped, or not stepped, as `FAIL_TICK_COMPLETES` says. -/
def Obligations.FailingTickLeavesOtherExecutorsAlone : Prop :=
  ∀ (before before' rest rest' : List State) (s left : State) (opcode : Byte) (fetchedAt : Addr),
    List.Forall₂ (fun u v => step u = .next v) before before' →
    List.Forall₂ (fun u v => step u = .next v) rest rest' →
    step s = .fault (.unimplementedOpcode opcode fetchedAt left) →
    Clock.tick ⟨before ++ s :: rest⟩ =
      .ticked ⟨before' ++ left :: (if Config.failTickCompletes then rest' else rest)⟩
        [(before.length, ⟨opcode, fetchedAt⟩)]

/-- A tick with a halted executor registered is outside the Clock's precondition, and is given no meaning (45_clock.md;
R99; decision D7, log entry 9). -/
def Obligations.TickRequiresNoHaltedExecutor : Prop :=
  ∀ (c : Clock) (s : State), s ∈ c.executors → s.phase = .halted → c.tick = .refused
end

