-- ==== Sys2Proof/Laws/Decode.lean ====
section
/-! SUPPORT. What the dispatch table, the byte helpers and the decoder do, said once. -/

namespace Sys2Proof

/-- The dispatch table by cases: the four registered bytes, and the sentinel for every other. -/
theorem dispatchTable_eq (b : Byte) :
    dispatchTable b = if b = 0xA9#8 then some .lda else if b = 0x8D#8 then some .sta
      else if b = 0x78#8 then some .sei else if b = 0xD8#8 then some .cld else none := by
  revert b; decide

theorem dispatchTable_none {b : Byte} :
    dispatchTable b = none ↔ b ≠ 0xA9#8 ∧ b ≠ 0x8D#8 ∧ b ≠ 0x78#8 ∧ b ≠ 0xD8#8 := by
  revert b; decide

@[simp] theorem dispatchTable_lda : dispatchTable 0xA9#8 = some .lda := by decide
@[simp] theorem dispatchTable_sta : dispatchTable 0x8D#8 = some .sta := by decide
@[simp] theorem dispatchTable_sei : dispatchTable 0x78#8 = some .sei := by decide
@[simp] theorem dispatchTable_cld : dispatchTable 0xD8#8 = some .cld := by decide

@[simp] theorem lowByte_joinBytes (lo hi : Byte) : lowByte (joinBytes lo hi) = lo := by
  apply BitVec.eq_of_getLsbD_eq
  intro k hk
  simp only [lowByte, joinBytes, BitVec.getLsbD_extractLsb', BitVec.getLsbD_append]
  simp [hk]

@[simp] theorem highByte_joinBytes (lo hi : Byte) : highByte (joinBytes lo hi) = hi := by
  apply BitVec.eq_of_getLsbD_eq
  intro k hk
  simp only [highByte, joinBytes, BitVec.getLsbD_extractLsb', BitVec.getLsbD_append]
  simp [hk]

@[simp] theorem joinBytes_low_high (v : Addr) : joinBytes (lowByte v) (highByte v) = v := by
  apply BitVec.eq_of_getLsbD_eq
  intro k hk
  simp only [lowByte, highByte, joinBytes, BitVec.getLsbD_extractLsb', BitVec.getLsbD_append]
  by_cases h : k < 8
  · simp [h]
  · have e : 8 + (k - 8) = k := by omega
    simp [h, e, show k - 8 < 8 by omega]

@[simp] theorem decode_cons (b : Byte) (rest : List Byte) :
    decode (b :: rest) = match dispatchTable b with
      | none    => .error (.unimplemented b)
      | some op => decodeOperand op rest := rfl

end Sys2Proof
end

