-- ==== Sys2Proof/Laws/Memory.lean ====
section
/-! SUPPORT. What the memory controller's operations do, said once: reads after stores and after the image load, and the
canonical form that every operation keeps. -/

namespace Sys2Proof.Machine

@[simp] theorem cell_nil (a : Nat) : Memory.cell [] a = Config.blankByte := rfl

theorem cell_cons (k a : Nat) (v : Byte) (m : Memory) :
    Memory.cell ((k, v) :: m) a = if k = a then v else Memory.cell m a := rfl

theorem wfFrom_cons (lo k : Nat) (v : Byte) (m : Memory) :
    Memory.wfFrom lo ((k, v) :: m) = true ↔
      lo ≤ k ∧ k < Config.memSize ∧ v ≠ Config.blankByte ∧ Memory.wfFrom (k + 1) m = true := by
  simp [Memory.wfFrom, and_assoc]

theorem wfFrom_mono {lo lo' : Nat} (h : lo' ≤ lo) : ∀ {m : Memory}, Memory.wfFrom lo m = true → Memory.wfFrom lo' m = true
  | [], _ => rfl
  | (k, v) :: m, hm => by
    rw [wfFrom_cons] at hm ⊢
    exact ⟨h.trans hm.1, hm.2⟩

theorem cell_below {lo a : Nat} (h : a < lo) : ∀ {m : Memory}, Memory.wfFrom lo m = true → m.cell a = Config.blankByte
  | [], _ => rfl
  | (k, v) :: m, hm => by
    rw [wfFrom_cons] at hm
    rw [cell_cons, if_neg (by omega), cell_below (lo := k + 1) (by omega) hm.2.2.2]

/-- The read-after-write law of the array: a cell set to `v` reads `v`, and every other cell reads as before. -/
theorem cell_setCell (b a : Nat) (v : Byte) : ∀ {lo : Nat} {m : Memory}, Memory.wfFrom lo m = true →
    (m.setCell a v).cell b = if b = a then v else m.cell b
  | _, [], _ => by
    by_cases hv : v = Config.blankByte
    · simp [Memory.setCell, hv]
    · simp [Memory.setCell, hv, cell_cons, eq_comm]
  | lo, (k, w) :: m, hm => by
    rw [wfFrom_cons] at hm
    obtain ⟨-, -, -, htail⟩ := hm
    unfold Memory.setCell
    rcases Nat.lt_trichotomy a k with hlt | rfl | hgt
    · have hblank : Memory.cell ((k, w) :: m) a = Config.blankByte := by
        rw [cell_cons, if_neg (by omega), cell_below (lo := k + 1) (by omega) htail]
      by_cases hv : v = Config.blankByte
      · by_cases hb : b = a
        · simp [hlt, hv, hb, hblank]
        · simp [hlt, hv, hb]
      · by_cases hb : b = a
        · simp [hlt, hv, hb, cell_cons]
        · simp [hlt, hv, hb, cell_cons a, Ne.symm hb]
    · by_cases hv : v = Config.blankByte
      · by_cases hb : b = a
        · have := cell_below (Nat.lt_succ_self a) htail
          simp [hv, hb, this]
        · simp [hv, hb, cell_cons, Ne.symm hb]
      · by_cases hb : b = a
        · simp [hv, hb, cell_cons]
        · simp [hv, hb, cell_cons, Ne.symm hb]
    · have hne : ¬ a < k := by omega
      have hne' : ¬ a = k := by omega
      simp only [hne, hne', if_false, cell_cons, cell_setCell b a v htail]
      by_cases hk : k = b
      · simp [hk]; omega
      · simp [hk]

theorem setCell_wfFrom {a : Nat} (v : Byte) (ha : a < Config.memSize) : ∀ {lo : Nat} {m : Memory}, lo ≤ a →
    Memory.wfFrom lo m = true → Memory.wfFrom lo (m.setCell a v) = true
  | lo, [], hlo, _ => by
    by_cases hv : v = Config.blankByte
    · simp [Memory.setCell, hv, Memory.wfFrom]
    · simp [Memory.setCell, hv, Memory.wfFrom, hlo, ha]
  | lo, (k, w) :: m, hlo, hm => by
    have hm' := hm
    rw [wfFrom_cons] at hm
    obtain ⟨h1, h2, h3, h4⟩ := hm
    unfold Memory.setCell
    rcases Nat.lt_trichotomy a k with hlt | rfl | hgt
    · by_cases hv : v = Config.blankByte
      · simpa [hlt, hv] using hm'
      · simp only [hlt, hv, if_true, if_false, wfFrom_cons]
        exact ⟨hlo, ha, hv, by omega, h2, h3, h4⟩
    · by_cases hv : v = Config.blankByte
      · simpa [hv] using wfFrom_mono (by omega) h4
      · simp only [lt_irrefl, if_true, if_false, hv, wfFrom_cons]
        exact ⟨h1, h2, hv, h4⟩
    · simp only [show ¬ a < k by omega, show ¬ a = k by omega, if_false, wfFrom_cons]
      exact ⟨h1, h2, h3, setCell_wfFrom v ha (by omega) h4⟩

/-- R37 on the array: a program's write reaches the cell it names, below `0x8000`, and no other. -/
theorem cell_writeByte {m : Memory} (hm : m.wf = true) (a b : Nat) (v : Byte) :
    (m.writeByte a v).cell b = if b = a ∧ a < Config.roBase then v else m.cell b := by
  unfold Memory.writeByte
  split
  · rw [if_neg (by omega)]
  · rw [cell_setCell b a v hm]
    by_cases h : b = a
    · simp [h]; omega
    · simp [h]

/-- Every write keeps the canonical form. -/
theorem writeByte_wf {m : Memory} (hm : m.wf = true) (a : Nat) (v : Byte) : (m.writeByte a v).wf = true := by
  unfold Memory.writeByte
  split
  · exact hm
  · exact setCell_wfFrom v (by simp only [Config.memSize, Config.roBase] at *; omega) (Nat.zero_le a) hm

/-- What `withFetchWord` does to memory keeps the canonical form. -/
theorem placeBytes_wf : ∀ (bs : List Byte) (a : Addr) {m : Memory}, m.wf = true → (m.placeBytes a bs).wf = true
  | [], _, _, hm => hm
  | b :: bs, a, _, hm =>
    placeBytes_wf bs (a + 1#16) (setCell_wfFrom b (by simp only [Config.memSize]; omega) (Nat.zero_le _) hm)

theorem imageCells_wfFrom : ∀ (bs : List Byte) (a : Nat), a + bs.length ≤ Config.memSize →
    Memory.wfFrom a (imageCells a bs) = true
  | [], _, _ => rfl
  | b :: bs, a, h => by
    have h' : a + 1 + bs.length ≤ Config.memSize := by simp only [List.length_cons] at h; omega
    have ih := imageCells_wfFrom bs (a + 1) h'
    unfold imageCells
    split
    · exact wfFrom_mono (Nat.le_succ a) ih
    · rw [wfFrom_cons]
      exact ⟨le_refl a, by omega, ‹_›, ih⟩

theorem cell_imageCells : ∀ (bs : List Byte) (a k : Nat),
    (imageCells a bs).cell k = if a ≤ k then bs.getD (k - a) Config.blankByte else Config.blankByte
  | [], _, _ => by simp [imageCells]
  | b :: bs, a, k => by
    have ih := cell_imageCells bs (a + 1) k
    unfold imageCells
    rcases Nat.lt_trichotomy a k with hlt | rfl | hgt
    · have e : k - a = (k - (a + 1)) + 1 := by omega
      rw [if_pos (Nat.succ_le_of_lt hlt)] at ih
      rw [if_pos hlt.le, e, List.getD_cons_succ]
      split
      · rw [ih]
      · rw [cell_cons, if_neg (by omega), ih]
    · split
      · rw [ih]; simp [‹b = Config.blankByte›]
      · simp [cell_cons]
    · split
      · rw [ih, if_neg (by omega), if_neg (by omega)]
      · rw [cell_cons, if_neg (by omega), ih, if_neg (by omega), if_neg (by omega)]

/-- The image load of reset (R38, R118), on the array reset creates: byte `k` of the image is at `0xC000 + k`, and every
other byte reads as an unlisted address does. -/
theorem cell_loadImage_blank (image : List Byte) (a : Nat) :
    (Memory.loadImage [] image).cell a =
      if Config.imageBase ≤ a then image.getD (a - Config.imageBase) Config.blankByte else Config.blankByte := by
  simp [Memory.loadImage, cell_imageCells]

/-- The image load of reset leaves memory in the canonical form. -/
theorem loadImage_blank_wf {image : List Byte} (h : image.length = Config.imageLen) :
    (Memory.loadImage [] image).wf = true := by
  have h' : Config.imageBase + image.length ≤ Config.memSize := by
    rw [h]; decide
  have := imageCells_wfFrom image Config.imageBase h'
  simpa [Memory.loadImage, Memory.wf] using wfFrom_mono (Nat.zero_le _) this

theorem readByte_of_lt {m : Memory} {a : Nat} (h : a < Config.memSize) : m.readByte a = m.cell a := by
  rw [Memory.readByte, Nat.mod_eq_of_lt h]

theorem readByte_addr (m : Memory) (a : Addr) : m.readByte a.toNat = m.cell a.toNat :=
  readByte_of_lt (by have := a.isLt; simpa [Config.memSize] using this)

end Sys2Proof.Machine
end

