-- ==== Sys2Proof/Laws/PerInstr.lean ====
section
/-! SUPPORT. The family of facts about instructions as syntax: an instruction encodes to as many bytes as the opcode
table gives it, and the encoding opens with the table's opcode byte (R53, R55, R58). -/

namespace Sys2Proof.Laws.EncodingMatchesRow

def Statement (i : Instr) : Prop :=
  (encode i).length = i.length ∧ (encode i).head? = some i.op.row.pattern

theorem lda (imm : Byte) : Statement (.lda imm) := ⟨rfl, rfl⟩

theorem sta (addr : Addr) : Statement (.sta addr) := ⟨rfl, rfl⟩

theorem sei : Statement .sei := ⟨rfl, rfl⟩

theorem cld : Statement .cld := ⟨rfl, rfl⟩

end Sys2Proof.Laws.EncodingMatchesRow
end

