-- ==== Sys2Proof/Laws/State.lean ====
section
/-! SUPPORT. One lemma per field of `State` per named update of `Machine/Ops.lean`, each true by `rfl`: later proofs
never unfold a record update. -/

namespace Sys2Proof.Machine

section advancePc
variable (t : State)
@[simp] theorem State.advancePc_a : t.advancePc.a = t.a := rfl
@[simp] theorem State.advancePc_x : t.advancePc.x = t.x := rfl
@[simp] theorem State.advancePc_y : t.advancePc.y = t.y := rfl
@[simp] theorem State.advancePc_s : t.advancePc.s = t.s := rfl
@[simp] theorem State.advancePc_pc : t.advancePc.pc = t.pc + 1#16 := rfl
@[simp] theorem State.advancePc_z : t.advancePc.z = t.z := rfl
@[simp] theorem State.advancePc_n : t.advancePc.n = t.n := rfl
@[simp] theorem State.advancePc_d : t.advancePc.d = t.d := rfl
@[simp] theorem State.advancePc_i : t.advancePc.i = t.i := rfl
@[simp] theorem State.advancePc_phase : t.advancePc.phase = t.phase := rfl
@[simp] theorem State.advancePc_ir : t.advancePc.ir = t.ir := rfl
@[simp] theorem State.advancePc_dl : t.advancePc.dl = t.dl := rfl
@[simp] theorem State.advancePc_oplo : t.advancePc.oplo = t.oplo := rfl
@[simp] theorem State.advancePc_rem : t.advancePc.rem = t.rem := rfl
@[simp] theorem State.advancePc_fault : t.advancePc.fault = t.fault := rfl
@[simp] theorem State.advancePc_mem : t.advancePc.mem = t.mem := rfl
end advancePc

section latchOpcode
variable (b : Byte) (t : State)
@[simp] theorem State.latchOpcode_a : (t.latchOpcode b).a = t.a := rfl
@[simp] theorem State.latchOpcode_x : (t.latchOpcode b).x = t.x := rfl
@[simp] theorem State.latchOpcode_y : (t.latchOpcode b).y = t.y := rfl
@[simp] theorem State.latchOpcode_s : (t.latchOpcode b).s = t.s := rfl
@[simp] theorem State.latchOpcode_pc : (t.latchOpcode b).pc = t.pc := rfl
@[simp] theorem State.latchOpcode_z : (t.latchOpcode b).z = t.z := rfl
@[simp] theorem State.latchOpcode_n : (t.latchOpcode b).n = t.n := rfl
@[simp] theorem State.latchOpcode_d : (t.latchOpcode b).d = t.d := rfl
@[simp] theorem State.latchOpcode_i : (t.latchOpcode b).i = t.i := rfl
@[simp] theorem State.latchOpcode_phase : (t.latchOpcode b).phase = t.phase := rfl
@[simp] theorem State.latchOpcode_ir : (t.latchOpcode b).ir = b := rfl
@[simp] theorem State.latchOpcode_dl : (t.latchOpcode b).dl = t.dl := rfl
@[simp] theorem State.latchOpcode_oplo : (t.latchOpcode b).oplo = t.oplo := rfl
@[simp] theorem State.latchOpcode_rem : (t.latchOpcode b).rem = t.rem := rfl
@[simp] theorem State.latchOpcode_fault : (t.latchOpcode b).fault = t.fault := rfl
@[simp] theorem State.latchOpcode_mem : (t.latchOpcode b).mem = t.mem := rfl
end latchOpcode

section latchOperand
variable (b : Byte) (r : Fin 2) (t : State)
@[simp] theorem State.latchOperand_a : (t.latchOperand b r).a = t.a := rfl
@[simp] theorem State.latchOperand_x : (t.latchOperand b r).x = t.x := rfl
@[simp] theorem State.latchOperand_y : (t.latchOperand b r).y = t.y := rfl
@[simp] theorem State.latchOperand_s : (t.latchOperand b r).s = t.s := rfl
@[simp] theorem State.latchOperand_pc : (t.latchOperand b r).pc = t.pc := rfl
@[simp] theorem State.latchOperand_z : (t.latchOperand b r).z = t.z := rfl
@[simp] theorem State.latchOperand_n : (t.latchOperand b r).n = t.n := rfl
@[simp] theorem State.latchOperand_d : (t.latchOperand b r).d = t.d := rfl
@[simp] theorem State.latchOperand_i : (t.latchOperand b r).i = t.i := rfl
@[simp] theorem State.latchOperand_phase : (t.latchOperand b r).phase = t.phase := rfl
@[simp] theorem State.latchOperand_ir : (t.latchOperand b r).ir = t.ir := rfl
@[simp] theorem State.latchOperand_dl : (t.latchOperand b r).dl = b := rfl
@[simp] theorem State.latchOperand_oplo : (t.latchOperand b r).oplo = t.oplo := rfl
@[simp] theorem State.latchOperand_rem : (t.latchOperand b r).rem = r := rfl
@[simp] theorem State.latchOperand_fault : (t.latchOperand b r).fault = t.fault := rfl
@[simp] theorem State.latchOperand_mem : (t.latchOperand b r).mem = t.mem := rfl
end latchOperand

section deliverLow
variable (b : Byte) (t : State)
@[simp] theorem State.deliverLow_a : (t.deliverLow b).a = t.a := rfl
@[simp] theorem State.deliverLow_x : (t.deliverLow b).x = t.x := rfl
@[simp] theorem State.deliverLow_y : (t.deliverLow b).y = t.y := rfl
@[simp] theorem State.deliverLow_s : (t.deliverLow b).s = t.s := rfl
@[simp] theorem State.deliverLow_pc : (t.deliverLow b).pc = t.pc := rfl
@[simp] theorem State.deliverLow_z : (t.deliverLow b).z = t.z := rfl
@[simp] theorem State.deliverLow_n : (t.deliverLow b).n = t.n := rfl
@[simp] theorem State.deliverLow_d : (t.deliverLow b).d = t.d := rfl
@[simp] theorem State.deliverLow_i : (t.deliverLow b).i = t.i := rfl
@[simp] theorem State.deliverLow_phase : (t.deliverLow b).phase = t.phase := rfl
@[simp] theorem State.deliverLow_ir : (t.deliverLow b).ir = t.ir := rfl
@[simp] theorem State.deliverLow_dl : (t.deliverLow b).dl = t.dl := rfl
@[simp] theorem State.deliverLow_oplo : (t.deliverLow b).oplo = b := rfl
@[simp] theorem State.deliverLow_rem : (t.deliverLow b).rem = t.rem := rfl
@[simp] theorem State.deliverLow_fault : (t.deliverLow b).fault = t.fault := rfl
@[simp] theorem State.deliverLow_mem : (t.deliverLow b).mem = t.mem := rfl
end deliverLow

section suspendIn
variable (p : Phase) (t : State)
@[simp] theorem State.suspendIn_a : (t.suspendIn p).a = t.a := rfl
@[simp] theorem State.suspendIn_x : (t.suspendIn p).x = t.x := rfl
@[simp] theorem State.suspendIn_y : (t.suspendIn p).y = t.y := rfl
@[simp] theorem State.suspendIn_s : (t.suspendIn p).s = t.s := rfl
@[simp] theorem State.suspendIn_pc : (t.suspendIn p).pc = t.pc := rfl
@[simp] theorem State.suspendIn_z : (t.suspendIn p).z = t.z := rfl
@[simp] theorem State.suspendIn_n : (t.suspendIn p).n = t.n := rfl
@[simp] theorem State.suspendIn_d : (t.suspendIn p).d = t.d := rfl
@[simp] theorem State.suspendIn_i : (t.suspendIn p).i = t.i := rfl
@[simp] theorem State.suspendIn_phase : (t.suspendIn p).phase = p := rfl
@[simp] theorem State.suspendIn_ir : (t.suspendIn p).ir = t.ir := rfl
@[simp] theorem State.suspendIn_dl : (t.suspendIn p).dl = t.dl := rfl
@[simp] theorem State.suspendIn_oplo : (t.suspendIn p).oplo = t.oplo := rfl
@[simp] theorem State.suspendIn_rem : (t.suspendIn p).rem = t.rem := rfl
@[simp] theorem State.suspendIn_fault : (t.suspendIn p).fault = t.fault := rfl
@[simp] theorem State.suspendIn_mem : (t.suspendIn p).mem = t.mem := rfl
end suspendIn

section setA
variable (v : Byte) (t : State)
@[simp] theorem State.setA_a : (t.setA v).a = v := rfl
@[simp] theorem State.setA_x : (t.setA v).x = t.x := rfl
@[simp] theorem State.setA_y : (t.setA v).y = t.y := rfl
@[simp] theorem State.setA_s : (t.setA v).s = t.s := rfl
@[simp] theorem State.setA_pc : (t.setA v).pc = t.pc := rfl
@[simp] theorem State.setA_z : (t.setA v).z = t.z := rfl
@[simp] theorem State.setA_n : (t.setA v).n = t.n := rfl
@[simp] theorem State.setA_d : (t.setA v).d = t.d := rfl
@[simp] theorem State.setA_i : (t.setA v).i = t.i := rfl
@[simp] theorem State.setA_phase : (t.setA v).phase = t.phase := rfl
@[simp] theorem State.setA_ir : (t.setA v).ir = t.ir := rfl
@[simp] theorem State.setA_dl : (t.setA v).dl = t.dl := rfl
@[simp] theorem State.setA_oplo : (t.setA v).oplo = t.oplo := rfl
@[simp] theorem State.setA_rem : (t.setA v).rem = t.rem := rfl
@[simp] theorem State.setA_fault : (t.setA v).fault = t.fault := rfl
@[simp] theorem State.setA_mem : (t.setA v).mem = t.mem := rfl
end setA

section setZN
variable (zero negative : Bool) (t : State)
@[simp] theorem State.setZN_a : (t.setZN zero negative).a = t.a := rfl
@[simp] theorem State.setZN_x : (t.setZN zero negative).x = t.x := rfl
@[simp] theorem State.setZN_y : (t.setZN zero negative).y = t.y := rfl
@[simp] theorem State.setZN_s : (t.setZN zero negative).s = t.s := rfl
@[simp] theorem State.setZN_pc : (t.setZN zero negative).pc = t.pc := rfl
@[simp] theorem State.setZN_z : (t.setZN zero negative).z = zero := rfl
@[simp] theorem State.setZN_n : (t.setZN zero negative).n = negative := rfl
@[simp] theorem State.setZN_d : (t.setZN zero negative).d = t.d := rfl
@[simp] theorem State.setZN_i : (t.setZN zero negative).i = t.i := rfl
@[simp] theorem State.setZN_phase : (t.setZN zero negative).phase = t.phase := rfl
@[simp] theorem State.setZN_ir : (t.setZN zero negative).ir = t.ir := rfl
@[simp] theorem State.setZN_dl : (t.setZN zero negative).dl = t.dl := rfl
@[simp] theorem State.setZN_oplo : (t.setZN zero negative).oplo = t.oplo := rfl
@[simp] theorem State.setZN_rem : (t.setZN zero negative).rem = t.rem := rfl
@[simp] theorem State.setZN_fault : (t.setZN zero negative).fault = t.fault := rfl
@[simp] theorem State.setZN_mem : (t.setZN zero negative).mem = t.mem := rfl
end setZN

section setD
variable (v : Bool) (t : State)
@[simp] theorem State.setD_a : (t.setD v).a = t.a := rfl
@[simp] theorem State.setD_x : (t.setD v).x = t.x := rfl
@[simp] theorem State.setD_y : (t.setD v).y = t.y := rfl
@[simp] theorem State.setD_s : (t.setD v).s = t.s := rfl
@[simp] theorem State.setD_pc : (t.setD v).pc = t.pc := rfl
@[simp] theorem State.setD_z : (t.setD v).z = t.z := rfl
@[simp] theorem State.setD_n : (t.setD v).n = t.n := rfl
@[simp] theorem State.setD_d : (t.setD v).d = v := rfl
@[simp] theorem State.setD_i : (t.setD v).i = t.i := rfl
@[simp] theorem State.setD_phase : (t.setD v).phase = t.phase := rfl
@[simp] theorem State.setD_ir : (t.setD v).ir = t.ir := rfl
@[simp] theorem State.setD_dl : (t.setD v).dl = t.dl := rfl
@[simp] theorem State.setD_oplo : (t.setD v).oplo = t.oplo := rfl
@[simp] theorem State.setD_rem : (t.setD v).rem = t.rem := rfl
@[simp] theorem State.setD_fault : (t.setD v).fault = t.fault := rfl
@[simp] theorem State.setD_mem : (t.setD v).mem = t.mem := rfl
end setD

section setI
variable (v : Bool) (t : State)
@[simp] theorem State.setI_a : (t.setI v).a = t.a := rfl
@[simp] theorem State.setI_x : (t.setI v).x = t.x := rfl
@[simp] theorem State.setI_y : (t.setI v).y = t.y := rfl
@[simp] theorem State.setI_s : (t.setI v).s = t.s := rfl
@[simp] theorem State.setI_pc : (t.setI v).pc = t.pc := rfl
@[simp] theorem State.setI_z : (t.setI v).z = t.z := rfl
@[simp] theorem State.setI_n : (t.setI v).n = t.n := rfl
@[simp] theorem State.setI_d : (t.setI v).d = t.d := rfl
@[simp] theorem State.setI_i : (t.setI v).i = v := rfl
@[simp] theorem State.setI_phase : (t.setI v).phase = t.phase := rfl
@[simp] theorem State.setI_ir : (t.setI v).ir = t.ir := rfl
@[simp] theorem State.setI_dl : (t.setI v).dl = t.dl := rfl
@[simp] theorem State.setI_oplo : (t.setI v).oplo = t.oplo := rfl
@[simp] theorem State.setI_rem : (t.setI v).rem = t.rem := rfl
@[simp] theorem State.setI_fault : (t.setI v).fault = t.fault := rfl
@[simp] theorem State.setI_mem : (t.setI v).mem = t.mem := rfl
end setI

section recordFault
variable (r : FaultRecord) (t : State)
@[simp] theorem State.recordFault_a : (t.recordFault r).a = t.a := rfl
@[simp] theorem State.recordFault_x : (t.recordFault r).x = t.x := rfl
@[simp] theorem State.recordFault_y : (t.recordFault r).y = t.y := rfl
@[simp] theorem State.recordFault_s : (t.recordFault r).s = t.s := rfl
@[simp] theorem State.recordFault_pc : (t.recordFault r).pc = t.pc := rfl
@[simp] theorem State.recordFault_z : (t.recordFault r).z = t.z := rfl
@[simp] theorem State.recordFault_n : (t.recordFault r).n = t.n := rfl
@[simp] theorem State.recordFault_d : (t.recordFault r).d = t.d := rfl
@[simp] theorem State.recordFault_i : (t.recordFault r).i = t.i := rfl
@[simp] theorem State.recordFault_phase : (t.recordFault r).phase = t.phase := rfl
@[simp] theorem State.recordFault_ir : (t.recordFault r).ir = t.ir := rfl
@[simp] theorem State.recordFault_dl : (t.recordFault r).dl = t.dl := rfl
@[simp] theorem State.recordFault_oplo : (t.recordFault r).oplo = t.oplo := rfl
@[simp] theorem State.recordFault_rem : (t.recordFault r).rem = t.rem := rfl
@[simp] theorem State.recordFault_fault : (t.recordFault r).fault = some r := rfl
@[simp] theorem State.recordFault_mem : (t.recordFault r).mem = t.mem := rfl
end recordFault

section store
variable (addr : Addr) (v : Byte) (t : State)
@[simp] theorem State.store_a : (t.store addr v).a = t.a := rfl
@[simp] theorem State.store_x : (t.store addr v).x = t.x := rfl
@[simp] theorem State.store_y : (t.store addr v).y = t.y := rfl
@[simp] theorem State.store_s : (t.store addr v).s = t.s := rfl
@[simp] theorem State.store_pc : (t.store addr v).pc = t.pc := rfl
@[simp] theorem State.store_z : (t.store addr v).z = t.z := rfl
@[simp] theorem State.store_n : (t.store addr v).n = t.n := rfl
@[simp] theorem State.store_d : (t.store addr v).d = t.d := rfl
@[simp] theorem State.store_i : (t.store addr v).i = t.i := rfl
@[simp] theorem State.store_phase : (t.store addr v).phase = t.phase := rfl
@[simp] theorem State.store_ir : (t.store addr v).ir = t.ir := rfl
@[simp] theorem State.store_dl : (t.store addr v).dl = t.dl := rfl
@[simp] theorem State.store_oplo : (t.store addr v).oplo = t.oplo := rfl
@[simp] theorem State.store_rem : (t.store addr v).rem = t.rem := rfl
@[simp] theorem State.store_fault : (t.store addr v).fault = t.fault := rfl
@[simp] theorem State.store_mem : (t.store addr v).mem = t.mem.writeByte addr.toNat v := rfl
end store

end Sys2Proof.Machine
end

