-- ==== Sys2Proof/Laws/Reset.lean ====
section
/-! SUPPORT. The interface's reset state is the machine `Reset(image)` constructs for the image of zero bytes. -/

namespace Sys2Proof.Machine

/-- The values `State.reset` takes for what the spec leaves unspecified (log entries 2 to 4). -/
def zeroDraw : ResetDraw :=
  ⟨0x00#8, 0x00#8, 0x00#8, 0x00#8, false, false, false, false, 0x00#8, 0x00#8, 0x00#8, 0⟩

theorem imageCells_blank (k : Nat) : ∀ a : Nat, imageCells a (List.replicate k Config.blankByte) = [] := by
  induction k with
  | zero => intro a; rfl
  | succ k ih => intro a; simp [List.replicate_succ, imageCells, ih]

/-- `State.reset` is what reset constructs from the image of 16384 zero bytes. -/
theorem reset_eq : engineAtReset zeroDraw (List.replicate Config.imageLen Config.blankByte) = State.reset := by
  have h : Memory.loadImage [] (List.replicate Config.imageLen Config.blankByte) = [] := by
    simp [Memory.loadImage, imageCells_blank]
  simp [engineAtReset, h, State.reset, zeroDraw]

/-- The machine has `NUM_EXECUTORS` executors (R93). -/
theorem resetMachine_executors {draw : ResetDraw} {image : List Byte} {c : Clock}
    (h : resetMachine draw image = .constructed c) : c.executors.length = Config.numExecutors := by
  unfold resetMachine at h
  split at h
  · cases h; rfl
  · cases h

theorem reset_mem_wf : State.reset.mem.wf = true := rfl

end Sys2Proof.Machine
end

