-- ==== Sys2Proof/Laws/Step.lean ====
section
/-! SUPPORT. What a shared operation, a meaning and a cycle-step can do, said once. -/

namespace Sys2Proof.Machine

/-- Everything the opcode fetch does (R72). -/
theorem fetchOpcode_eq (t : State) :
    t.fetchOpcode = { t with ir := t.load t.pc, pc := t.pc + 1#16, phase := .decode } := rfl

/-- Everything the first half of fetch-and-advance does (R69). -/
theorem beginFetch_eq (t : State) (b : Byte) (r : Fin 2) :
    t.beginFetch b r = { t with dl := b, rem := r, phase := .operand } := rfl

/-- Everything the delivery of an absolute address's low byte does (R75). -/
theorem middleAbsolute_eq (t : State) (addr : Addr) :
    middleAbsolute addr t =
      { t with pc := t.pc + 1#16, oplo := lowByte addr, dl := highByte addr, rem := 0, phase := .operand } := rfl

/-- Everything `A <- UpdateFromResult(v)` does (R87). -/
theorem loadA_eq (t : State) (v : Byte) :
    loadA v t = { t with a := v, z := isZero v, n := isNegative v } := rfl

/-- Everything the failure does to the machine (R102, R103). -/
theorem halt_eq (t : State) :
    t.halt = { t with fault := some ⟨t.ir, t.pc - 1#16⟩, phase := .halted } := rfl

/-- The bytes of the instruction in flight are never too few: outside a registered opcode they do not decode, and with
one they do. -/
theorem decode_inFlight_decode {t : State} (h : t.phase = .decode) :
    decode t.inFlight = match dispatchTable t.ir with
      | none      => .error (.unimplemented t.ir)
      | some .lda => .ok (.lda (t.load t.pc), [t.load (t.pc + 1#16)])
      | some .sta => .ok (.sta (joinBytes (t.load t.pc) (t.load (t.pc + 1#16))), [])
      | some .sei => .ok (.sei, [t.load t.pc, t.load (t.pc + 1#16)])
      | some .cld => .ok (.cld, [t.load t.pc, t.load (t.pc + 1#16)]) := by
  simp only [State.inFlight, h, decode_cons]
  cases dispatchTable t.ir with
  | none => rfl
  | some op => cases op <;> rfl

/-- The cycle-step that begins an opcode fetch (R72). -/
theorem step_fetch {t : State} (h : t.phase = .fetch ∨ t.phase = .settle) : step t = .next t.fetchOpcode := by
  rcases h with h | h <;> simp [step, h]

/-- The cycle-step in phase `DECODE` (R73), by the opcode in `IR`. -/
theorem step_decode {t : State} (h : t.phase = .decode) :
    step t = match dispatchTable t.ir with
      | none      => raiseUnimplemented t
      | some .lda => .next (t.beginFetch (t.load t.pc) 0)
      | some .sta => .next (t.beginFetch (t.load t.pc) 1)
      | some .sei => .next ((t.setI true).suspendIn .settle)
      | some .cld => .next ((t.setD false).suspendIn .settle) := by
  simp only [step, h, decode_inFlight_decode h]
  cases dispatchTable t.ir with
  | none => rfl
  | some op => cases op <;> simp [exec, execLda, execSta, execSei, execCld, h, beginImmediate, beginAbsolute]

/-- The cycle-step in phase `OPERAND` (R74 to R76), by the opcode in `IR`. -/
theorem step_operand {t : State} (h : t.phase = .operand) :
    step t = match dispatchTable t.ir with
      | some .lda => .next (loadA t.dl t.advancePc).fetchOpcode
      | some .sta =>
        if t.rem = 1 then
          .next ((t.advancePc.deliverLow t.dl).beginFetch (t.load (t.pc + 1#16)) 0)
        else .next ((t.advancePc.store (joinBytes t.oplo t.dl) t.a).suspendIn .settle)
      | some .sei => .refused .noSuspensionPoint
      | some .cld => .refused .noSuspensionPoint
      | none      => .refused .noSuspensionPoint := by
  by_cases hr : t.rem = 1 <;> cases hop : dispatchTable t.ir with
  | none => simp [step, h, State.inFlight, hr, hop]
  | some op =>
    cases op <;>
      simp [step, h, State.inFlight, hr, hop, decodeOperand, exec, execLda, execSta, execSei, execCld,
        endImmediate, endAbsolute, middleAbsolute]

/-- A halted executor is given no step (R77). -/
theorem step_halted {t : State} (h : t.phase = .halted) : step t = .refused .executorHalted := by
  simp [step, h]

/-- Everything a cycle-step that answers a next state can have done: the opcode fetch, the four dispatches, and the three
ways a handler resumes. -/
theorem step_cases {t u : State} (h : step t = .next u) :
    ((t.phase = .fetch ∨ t.phase = .settle) ∧ u = t.fetchOpcode) ∨
    (t.phase = .decode ∧ t.ir = 0xA9#8 ∧ u = t.beginFetch (t.load t.pc) 0) ∨
    (t.phase = .decode ∧ t.ir = 0x8D#8 ∧ u = t.beginFetch (t.load t.pc) 1) ∨
    (t.phase = .decode ∧ t.ir = 0x78#8 ∧ u = (t.setI true).suspendIn .settle) ∨
    (t.phase = .decode ∧ t.ir = 0xD8#8 ∧ u = (t.setD false).suspendIn .settle) ∨
    (t.phase = .operand ∧ t.ir = 0xA9#8 ∧ u = (loadA t.dl t.advancePc).fetchOpcode) ∨
    (t.phase = .operand ∧ t.ir = 0x8D#8 ∧ t.rem = 1 ∧
      u = (t.advancePc.deliverLow t.dl).beginFetch (t.load (t.pc + 1#16)) 0) ∨
    (t.phase = .operand ∧ t.ir = 0x8D#8 ∧ t.rem ≠ 1 ∧
      u = (t.advancePc.store (joinBytes t.oplo t.dl) t.a).suspendIn .settle) := by
  cases hp : t.phase with
  | fetch => rw [step_fetch (.inl hp)] at h; cases h; simp
  | settle => rw [step_fetch (.inr hp)] at h; cases h; simp
  | halted => rw [step_halted hp] at h; cases h
  | decode =>
    rw [step_decode hp, dispatchTable_eq] at h
    split_ifs at h with h1 h2 h3 h4 <;> first
      | (cases h; simp [*])
      | cases h
  | operand =>
    rw [step_operand hp, dispatchTable_eq] at h
    split_ifs at h with h1 h2 h3 h4 <;> simp_all

/-- Everything a failing cycle-step can have done (R101). -/
theorem step_fault_cases {t : State} {r : Fault} (h : step t = .fault r) :
    t.phase = .decode ∧ dispatchTable t.ir = none ∧ r = .unimplementedOpcode t.ir (t.pc - 1#16) t.halt := by
  cases hp : t.phase with
  | fetch => rw [step_fetch (.inl hp)] at h; cases h
  | settle => rw [step_fetch (.inr hp)] at h; cases h
  | halted => rw [step_halted hp] at h; cases h
  | decode =>
    rw [step_decode hp] at h
    cases hd : dispatchTable t.ir with
    | none => rw [hd] at h; cases h; simp
    | some op => rw [hd] at h; cases op <;> cases h
  | operand =>
    rw [step_operand hp] at h
    cases hd : dispatchTable t.ir with
    | none => rw [hd] at h; cases h
    | some op =>
      rw [hd] at h
      cases op with
      | sta => dsimp only at h; split_ifs at h
      | lda => cases h
      | sei => cases h
      | cld => cases h

/-- The host's `run` of this machine is `steps`. -/
theorem core_run_eq_steps (k : Nat) (t : State) : Host.Core.run Sys2Proof.core k t = steps k t := by
  induction k generalizing t with
  | zero => rfl
  | succ k ih =>
    simp only [Host.Core.run, steps, Sys2Proof.core]
    cases step t with
    | next u => exact ih u
    | fault r => rfl
    | refused r => rfl

end Sys2Proof.Machine
end

