-- ==== Sys2Proof/Tests/Slice0.lean ====
section
/-! SUPPORT. Tests, each with its expected result taken from `spec/95_test_vectors.md` or written out from the encodings
of R53, R58 and R62; and, for every statement with hypotheses, concrete states and operands that meet them. -/

namespace Sys2Proof.Tests

open Sys2Proof Sys2Proof.Machine

/-- The state a step answers, if it answers one. -/
def after : Host.Outcome State Fault Refusal → Option State
  | .next t    => some t
  | .fault _   => none
  | .refused _ => none

/-- The record a step fails with, if it fails. -/
def failure : Host.Outcome State Fault Refusal → Option FaultRecord
  | .next _                          => none
  | .fault (.unimplementedOpcode o a _) => some ⟨o, a⟩
  | .refused _                       => none

/-- A state in a given phase, with `IR`, `PC` and memory; everything else as in `State.reset`. -/
def resting (p : Phase) (ir : Byte) (pc : Addr) (mem : Memory) : State :=
  { State.reset with phase := p, ir := ir, pc := pc, mem := mem }

/-! ### Well-formedness -/

/-- The one check that can fail: an image one byte short, one byte long, or empty is refused (Z7, Z8, Z9). -/
theorem test_imageWf_refuses_other_lengths :
    imageWf [] = false ∧ imageWf (List.replicate 16383 0x00#8) = false ∧ imageWf (List.replicate 16385 0x00#8) = false := by
  simp only [imageWf, List.length_replicate, Config.imageLen]
  decide

theorem test_imageWf_accepts_16384 : imageWf (List.replicate 16384 0x00#8) = true := by
  simp only [imageWf, List.length_replicate, Config.imageLen]
  decide

/-- R60: no operand value is illegal, so there is no ill-formed instruction to refuse. -/
theorem instr_wf_all (i : Instr) : i.wf = true := by cases i <;> rfl

/-! ### Decoding, word by word from R58 -/

theorem test_decode_lda : decode [0b10101001#8, 0b01000010#8] = .ok (.lda 0x42#8, []) := rfl
theorem test_decode_sta : decode [0b10001101#8, 0b00110100#8, 0b00010010#8] = .ok (.sta 0x1234#16, []) := rfl
theorem test_decode_sei : decode [0b01111000#8] = .ok (.sei, []) := rfl
theorem test_decode_cld : decode [0b11011000#8] = .ok (.cld, []) := rfl
/-- V5: a neighbour of a registered value. -/
theorem test_decode_unimplemented : decode [0x8C#8, 0x00#8] = .error (.unimplemented 0x8C#8) := rfl
theorem test_decode_truncated : decode [0x8D#8, 0x34#8] = .error .truncated := rfl
theorem test_tableWord_lda : decodeTableWord 16 0x42A9 = some (.lda 0x42#8) := by decide
theorem test_tableWord_sta : decodeTableWord 24 0x12348D = some (.sta 0x1234#16) := by decide
/-- With only the opcode's bits given, the operand bits are 0. -/
theorem test_tableWord_sta_short : decodeTableWord 8 0x8D = some (.sta 0x0000#16) := by decide
/-- No two rows of the opcode table match one byte. -/
theorem test_opcodeTable_rows_disjoint :
    opcodeTable.Pairwise fun r r' => r.pattern &&& (r.mask &&& r'.mask) ≠ r'.pattern &&& (r.mask &&& r'.mask) := by
  decide

/-! ### Memory controller and reset -/

/-- M2 and M3: the last writable address, and the first protected one. -/
theorem test_write_7FFF : (Memory.writeByte [] 0x7FFF 0xFF#8).readByte 0x7FFF = 0xFF#8 := by decide
theorem test_write_8000 : (Memory.writeByte [] 0x8000 0xFF#8).readByte 0x8000 = 0x00#8 := by decide
/-- M8: zero is stored like any value. -/
theorem test_write_zero : Memory.writeByte [(0x1234, 0x9C#8)] 0x1234 0x00#8 = [] := by decide
/-- M10 and M11: little-endian, the second byte of a word at `0xFFFF` from `0x0000`. -/
theorem test_readWord_vector : Memory.readWord [(0xFFFC, 0x34#8), (0xFFFD, 0x12#8)] 0xFFFC = 0x1234#16 := by decide
theorem test_readWord_wraps : Memory.readWord [(0x0000, 0xAB#8), (0xFFFF, 0xCD#8)] 0xFFFF = 0xABCD#16 := by decide
/-- Z3: with an image of zeros `PC` is `0x0000`. -/
theorem test_reset_pc : State.reset.pc = 0x0000#16 := by decide
/-- Z7. -/
theorem test_reset_empty_image : resetMachine zeroDraw [] = .malformedImage 0 := by decide

/-! ### Cycle-steps -/

/-- Q3: an opcode fetch at `0xFFFF`. -/
theorem test_fetch_wraps :
    after (step (resting .fetch 0x00#8 0xFFFF#16 [(0xFFFF, 0xD8#8)])) =
      some (resting .decode 0xD8#8 0x0000#16 [(0xFFFF, 0xD8#8)]) := by decide
/-- Q5. -/
theorem test_lda_operand_read :
    (after (step (resting .decode 0xA9#8 0xC001#16 [(0xC001, 0x42#8)]))).map (fun t => (t.phase, t.dl, t.rem, t.pc, t.a)) =
      some (.operand, 0x42#8, 0, 0xC001#16, 0x00#8) := by decide
/-- Q14: the effect of LDA, fused with an opcode fetch over the wrap. -/
theorem test_lda_effect :
    (after (step { resting .operand 0xA9#8 0xFFFF#16 [(0x0000, 0x78#8)] with a := 0x99#8, n := true })).map
      (fun t => (t.phase, t.a, t.z, t.n, t.ir, t.pc)) =
      some (.decode, 0x00#8, true, false, 0x78#8, 0x0001#16) := by decide
/-- Q16. -/
theorem test_sta_high_byte :
    (after (step { resting .operand 0x8D#8 0xC003#16 [(0xC004, 0x12#8)] with dl := 0x34#8, rem := 1 })).map
      (fun t => (t.phase, t.oplo, t.dl, t.pc, t.rem)) = some (.operand, 0x34#8, 0x12#8, 0xC004#16, 0) := by decide
/-- Q17, with T6: low byte first. -/
theorem test_sta_store :
    (after (step { resting .operand 0x8D#8 0xC004#16 [] with oplo := 0x34#8, dl := 0x12#8, a := 0x42#8 })).map
      (fun t => (t.phase, t.mem, t.pc)) = some (.settle, [(0x1234, 0x42#8)], 0xC005#16) := by decide
/-- Q7 and Q9. -/
theorem test_sei : (after (step (resting .decode 0x78#8 0xC001#16 []))).map (fun t => (t.phase, t.i, t.pc)) =
    some (.settle, true, 0xC001#16) := by decide
theorem test_cld : (after (step { resting .decode 0xD8#8 0xC001#16 [] with d := true })).map (fun t => (t.phase, t.d, t.pc)) =
    some (.settle, false, 0xC001#16) := by decide
/-- Q12: the failure's record when `PC` has wrapped. -/
theorem test_unimplemented_record :
    failure (step (resting .decode 0x00#8 0x0000#16 [])) = some ⟨0x00#8, 0xFFFF#16⟩ := by decide
/-- K4: a halted executor's tick is refused. -/
theorem test_tick_halted : Clock.tick ⟨[resting .halted 0xEA#8 0xC001#16 []]⟩ = .refused := by decide
/-- K3 in small: two executors with memories of their own, one tick. -/
theorem test_tick_two :
    Clock.tick ⟨[resting .fetch 0x00#8 0xC000#16 [(0xC000, 0xA9#8)], resting .decode 0x78#8 0xC001#16 []]⟩ =
      .ticked ⟨[resting .decode 0xA9#8 0xC001#16 [(0xC000, 0xA9#8)],
        { resting .settle 0x78#8 0xC001#16 [] with i := true }]⟩ [] := by decide
/-- A program word placed after reset is fetched by the very next step. -/
theorem test_withFetchWord :
    (after (step (State.reset.withFetchWord 16 0x42A9))).map (fun t => (t.phase, t.ir, t.pc, t.mem)) =
      some (.decode, 0xA9#8, 0x0001#16, [(0, 0xA9#8), (1, 0x42#8)]) := by decide

/-! ### Witnesses: the hypotheses of the statements can be met -/

theorem unbackedBlank_of_keys : ∀ {m : Memory}, (m.all fun c => decide (c.1 < 0x8000 ∨ 0xC000 ≤ c.1)) = true →
    m.UnbackedBlank
  | [], _, _, _, _ => rfl
  | (k, v) :: m, h, a, h1, h2 => by
    simp only [List.all_cons, Bool.and_eq_true, decide_eq_true_eq] at h
    have hlt : a < Config.memSize := by simp only [Config.memSize]; omega
    have ih := unbackedBlank_of_keys h.2 a h1 h2
    rw [readByte_of_lt hlt] at ih ⊢
    rw [cell_cons, if_neg (by omega), ih]

/-- A full-length image: the hypothesis of the statements about reset. -/
theorem witness_full_length_image : (List.replicate 16384 0x00#8 : List Byte).length = 16384 := List.length_replicate ..

theorem witness_OnlyAFullLengthImageConstructs : ([] : List Byte).length ≠ 16384 := by decide

theorem witness_DecodedBytesAreTheEncoding :
    decode [0xA9#8, 0xFF#8, 0x00#8] = .ok (.lda 0xFF#8, [0x00#8]) ∧
    decode [0x8D#8, 0xFF#8, 0xFF#8] = .ok (.sta 0xFFFF#16, []) := ⟨rfl, rfl⟩

theorem witness_UnregisteredOpcodeIsAHardStop :
    ((0xAA#8 : Byte) ≠ 0xA9#8 ∧ (0xAA#8 : Byte) ≠ 0x8D#8 ∧ (0xAA#8 : Byte) ≠ 0x78#8 ∧ (0xAA#8 : Byte) ≠ 0xD8#8) ∧
    (resting .fetch 0x00#8 0xFFFF#16 [(0xFFFF, 0xAA#8)]).phase = .fetch ∧
    (resting .fetch 0x00#8 0xFFFF#16 [(0xFFFF, 0xAA#8)]).mem.readByte (0xFFFF#16 : Addr).toNat = 0xAA#8 ∧
    (resting .settle 0x78#8 0x0000#16 [(0x0000, 0xAA#8)]).phase = .settle ∧
    (resting .settle 0x78#8 0x0000#16 [(0x0000, 0xAA#8)]).mem.readByte (0x0000#16 : Addr).toNat = 0xAA#8 ∧
    (resting .decode 0xAA#8 0x0000#16 []).phase = .decode ∧ (resting .decode 0xAA#8 0x0000#16 []).ir = 0xAA#8 := by decide

/-- Each clause at its boundary: `0x7FFF` stores and `0x8000` does not, on the memory and in the cycle-step that stores. -/
theorem witness_ProgramWriteObeysProtection :
    Memory.wf [(0x7FFF, 0x55#8), (0xFFFF, 0x33#8)] = true ∧ (0xFFFF : Nat) < 65536 ∧ (0x8000 : Nat) ≤ 0x8000 ∧
    (resting .operand 0x8D#8 0xC004#16 []).phase = .operand ∧ (resting .operand 0x8D#8 0xC004#16 []).rem = 0 ∧
    0x8000 ≤ (0x8000#16 : Addr).toNat ∧ (0x7FFF#16 : Addr).toNat < 0x8000 := by decide

theorem witness_CanonicalMemoriesReadingAlikeAreEqual :
    Memory.wf [(0x0000, 0x01#8), (0xFFFF, 0x33#8)] = true ∧
    ∀ a : Nat, a < 65536 → Memory.readByte [(0x0000, 0x01#8), (0xFFFF, 0x33#8)] a =
      Memory.readByte [(0x0000, 0x01#8), (0xFFFF, 0x33#8)] a := ⟨by decide, fun _ _ => rfl⟩

theorem witness_UpdateFromResultDerivesZeroAndNegative :
    (0x00#8 : Byte).toNat = 0 ∧ (0x01 ≤ (0x01#8 : Byte).toNat ∧ (0x01#8 : Byte).toNat ≤ 0x7F) ∧
    (0x01 ≤ (0x7F#8 : Byte).toNat ∧ (0x7F#8 : Byte).toNat ≤ 0x7F) ∧ 0x80 ≤ (0x80#8 : Byte).toNat := by decide

/-- One state for each clause: `FETCH`, `SETTLE`, `DECODE`, and `OPERAND` with one byte left, with none left of STA and
with none left of LDA. -/
theorem witness_StepRunsTheDecodedInstruction :
    (let s := resting .fetch 0x00#8 0xFFFF#16 [(0x0000, 0x42#8), (0xFFFF, 0xA9#8)]
     s.phase = .fetch ∧ decode [s.load s.pc, s.load (s.pc + 1#16), s.load (s.pc + 2#16)] = .ok (.lda 0x42#8, [0x00#8])) ∧
    (let s := resting .settle 0x78#8 0x0010#16 [(0x0010, 0xD8#8)]
     s.phase = .settle ∧ decode [s.load s.pc, s.load (s.pc + 1#16), s.load (s.pc + 2#16)] = .ok (.cld, [0x00#8, 0x00#8])) ∧
    (let s := resting .decode 0x8D#8 0xC001#16 [(0xC002, 0x80#8)]
     s.phase = .decode ∧ decode [s.ir, s.load s.pc, s.load (s.pc + 1#16)] = .ok (.sta 0x8000#16, [])) ∧
    (let s := { resting .operand 0x8D#8 0xC001#16 [(0xC002, 0x80#8)] with rem := 1 }
     s.phase = .operand ∧ s.rem = 1 ∧ decode [s.ir, s.dl, s.load (s.pc + 1#16)] = .ok (.sta 0x8000#16, [])) ∧
    (let s := { resting .operand 0x8D#8 0xC002#16 [] with oplo := 0xFF#8, dl := 0x7F#8 }
     s.phase = .operand ∧ s.rem = 0 ∧ s.ir = 0x8D#8 ∧ decode [s.ir, s.oplo, s.dl] = .ok (.sta 0x7FFF#16, [])) ∧
    (let s := { resting .operand 0xA9#8 0xC001#16 [] with dl := 0x80#8 }
     s.phase = .operand ∧ s.rem = 0 ∧ s.ir ≠ 0x8D#8 ∧ decode [s.ir, s.dl] = .ok (.lda 0x80#8, [])) :=
  ⟨⟨rfl, rfl⟩, ⟨rfl, rfl⟩, ⟨rfl, rfl⟩, ⟨rfl, rfl, rfl⟩, ⟨rfl, rfl, rfl, rfl⟩, ⟨rfl, rfl, by decide, rfl⟩⟩

theorem witness_FetchWordIsWhatTheNextStepRuns :
    State.reset.mem.wf = true ∧ decodeTableWord 24 0x7FFF8D = some (.sta 0x7FFF#16) := by decide

/-- `FETCH` and `SETTLE`, the hypothesis of the opcode fetch, of the meanings' first cycle-step and of R101's last clause. -/
theorem witness_OpcodeFetchCycle :
    (resting .fetch 0x00#8 0xFFFF#16 []).phase = .fetch ∧ (resting .settle 0x8D#8 0x0000#16 []).phase = .settle := by decide

/-- Phase `DECODE` with each registered opcode, and phase `OPERAND` with each `REM`: the hypotheses of the cycle-step
statements and of the meanings' later clauses. -/
theorem witness_DispatchCycle :
    (resting .decode 0xA9#8 0xC001#16 []).phase = .decode ∧ (resting .decode 0xA9#8 0xC001#16 []).ir = 0xA9#8 ∧
    (resting .decode 0x8D#8 0xC001#16 []).ir = 0x8D#8 ∧ (resting .decode 0x78#8 0xC001#16 []).ir = 0x78#8 ∧
    (resting .decode 0xD8#8 0xC001#16 []).ir = 0xD8#8 := by decide

theorem witness_LdaEffectCycle :
    (resting .operand 0xA9#8 0xFFFF#16 []).phase = .operand ∧ (resting .operand 0xA9#8 0xFFFF#16 []).ir = 0xA9#8 := by
  decide

theorem witness_StaOperandAndStoreCycles :
    (resting .operand 0x8D#8 0xC002#16 []).phase = .operand ∧ (resting .operand 0x8D#8 0xC002#16 []).ir = 0x8D#8 ∧
    ({ resting .operand 0x8D#8 0xC001#16 [] with rem := 1 } : State).rem = 1 ∧
    (resting .operand 0x8D#8 0xC002#16 []).rem = 0 := by decide

/-- Phase and `REM` of each clause of `LdaCompletes`, `StaCompletes` and `SeiAndCldComplete`. -/
theorem witness_LdaCompletes_StaCompletes_SeiAndCldComplete :
    (resting .fetch 0x00#8 0xFFFF#16 []).phase = .fetch ∧ (resting .settle 0x8D#8 0x0000#16 []).phase = .settle ∧
    (resting .decode 0xA9#8 0x0000#16 []).phase = .decode ∧ (resting .operand 0xA9#8 0xFFFF#16 []).phase = .operand ∧
    ({ resting .operand 0x8D#8 0xC001#16 [] with rem := 1 } : State).rem = 1 ∧
    (resting .operand 0x8D#8 0xC001#16 []).rem = 0 := by decide

theorem witness_FailureRaisedExactlyByUnregisteredDispatch :
    step (resting .decode 0xEA#8 0xC001#16 []) =
      .fault (.unimplementedOpcode 0xEA#8 0xC000#16 (resting .decode 0xEA#8 0xC001#16 []).halt) := rfl

theorem witness_FailureIsPreciseAndPermanent :
    (resting .decode 0x00#8 0x0000#16 []).phase = .decode ∧ dispatchTable (resting .decode 0x00#8 0x0000#16 []).ir = none := by
  decide

theorem witness_HaltedExecutorIsRefused : (resting .halted 0xEA#8 0xC001#16 []).phase = .halted := rfl

/-- LDA's effect, SEI's and CLD's dispatch, and a cycle-step of each that has none of it. -/
theorem witness_RegisterInstructionsFrame :
    (∀ addr : Addr, Instr.lda 0x80#8 ≠ .sta addr) ∧ (∀ addr : Addr, Instr.sei ≠ .sta addr) ∧
    (∀ addr : Addr, Instr.cld ≠ .sta addr) ∧
    (∃ t, exec (.lda 0x80#8) (resting .operand 0xA9#8 0xC001#16 []) = .next t) ∧
    (∃ t, exec (.lda 0x80#8) (resting .decode 0xA9#8 0xC001#16 []) = .next t) ∧
    (∃ t, exec .sei (resting .decode 0x78#8 0xC001#16 []) = .next t) ∧
    (∃ t, exec .sei (resting .fetch 0x00#8 0xC000#16 []) = .next t) ∧
    (∃ t, exec .cld (resting .decode 0xD8#8 0xC001#16 []) = .next t) :=
  ⟨fun _ => nofun, fun _ => nofun, fun _ => nofun, ⟨_, rfl⟩, ⟨_, rfl⟩, ⟨_, rfl⟩, ⟨_, rfl⟩, ⟨_, rfl⟩⟩

/-- A store at the last writable address, a discarded one at the first protected address, and a cycle-step without one. -/
theorem witness_StaFrame :
    (resting .operand 0x8D#8 0xC002#16 [(0x7FFF, 0x55#8)]).mem.wf = true ∧
    (resting .operand 0x8D#8 0xC002#16 [(0x7FFF, 0x55#8)]).phase = .operand ∧
    (resting .operand 0x8D#8 0xC002#16 [(0x7FFF, 0x55#8)]).rem = 0 ∧
    (∃ t, exec (.sta 0x7FFF#16) (resting .operand 0x8D#8 0xC002#16 [(0x7FFF, 0x55#8)]) = .next t) ∧
    (∃ t, exec (.sta 0x8000#16) (resting .operand 0x8D#8 0xC002#16 [(0x7FFF, 0x55#8)]) = .next t) ∧
    (∃ t, exec (.sta 0x8000#16) (resting .decode 0x8D#8 0xC001#16 []) = .next t) :=
  ⟨rfl, rfl, rfl, ⟨_, rfl⟩, ⟨_, rfl⟩, ⟨_, rfl⟩⟩

/-- A good state in the middle of an STA: `IR`, `OPLO` and `DL` fresh, `REM = 0`. -/
def midSta : State :=
  { resting .operand 0x8D#8 0xC002#16 [(0xC000, 0x8D#8), (0xC001, 0xFF#8), (0xC002, 0x7F#8)] with
    oplo := 0xFF#8, dl := 0x7F#8, a := 0x42#8 }

theorem midSta_inv : midSta.Inv := ⟨by decide, by decide, by decide, unbackedBlank_of_keys (by decide)⟩

/-- A good state that is doomed: `0xEA` fetched at `0xC000`. -/
def fetchedEA : State := resting .decode 0xEA#8 0xC001#16 [(0xC000, 0xEA#8)]

theorem fetchedEA_inv : fetchedEA.Inv := ⟨by decide, by decide, by decide, unbackedBlank_of_keys (by decide)⟩

theorem witness_EveryStepKeepsTheInvariant :
    midSta.Inv ∧ (∃ t, step midSta = .next t) ∧ fetchedEA.Inv ∧
    step fetchedEA = .fault (.unimplementedOpcode 0xEA#8 0xC000#16 fetchedEA.halt) :=
  ⟨midSta_inv, ⟨_, rfl⟩, fetchedEA_inv, rfl⟩

theorem witness_GoodStatesAreSteppable :
    midSta.Inv ∧ midSta.phase ≠ .halted ∧ midSta.doomed = false ∧
    fetchedEA.Inv ∧ fetchedEA.phase ≠ .halted ∧ fetchedEA.doomed = true :=
  ⟨midSta_inv, by decide, by decide, fetchedEA_inv, by decide, by decide⟩

/-- An image whose vector is `0x8000`, the first address of the unbacked region (Z5). -/
def vectorIs8000 : List Byte := List.replicate 0x3FFC 0x00#8 ++ [0x00#8, 0x80#8, 0x00#8, 0x00#8]

theorem vectorIs8000_length : vectorIs8000.length = 16384 := by
  simp only [vectorIs8000, List.length_append, List.length_replicate, List.length_cons, List.length_nil]

theorem vectorIs8000_pc : (engineAtReset zeroDraw vectorIs8000).pc = 0x8000#16 := by
  have hlo : vectorIs8000.getD 0x3FFC 0x00#8 = 0x00#8 := by
    rw [vectorIs8000, List.getD_append_right _ _ _ _ (by rw [List.length_replicate]), List.length_replicate]; rfl
  have hhi : vectorIs8000.getD 0x3FFD 0x00#8 = 0x80#8 := by
    rw [vectorIs8000, List.getD_append_right _ _ _ _ (by rw [List.length_replicate]; omega), List.length_replicate]; rfl
  simp only [engineAtReset, Memory.readWord, Config.resetVector]
  rw [readByte_of_lt (by decide), readByte_of_lt (by decide), cell_loadImage_blank, cell_loadImage_blank,
    if_pos (by decide), if_pos (by decide)]
  exact congrArg₂ joinBytes hlo hhi

theorem witness_UnbackedRegionAlwaysReadsZero :
    vectorIs8000.length = 16384 ∧
    steps 0 (engineAtReset zeroDraw vectorIs8000) = .next (engineAtReset zeroDraw vectorIs8000) ∧
    (∃ u, step (engineAtReset zeroDraw vectorIs8000) = .next u ∧ u.phase = .decode ∧
      0x8000 ≤ (u.pc - 1#16).toNat ∧ (u.pc - 1#16).toNat < 0xC000) ∧
    (0x8000 : Nat) ≤ 0xBFFF ∧ (0xBFFF : Nat) < 0xC000 := by
  have hpc : (engineAtReset zeroDraw vectorIs8000).fetchOpcode.pc = 0x8001#16 :=
    congrArg (· + 1#16) vectorIs8000_pc
  exact ⟨vectorIs8000_length, rfl, ⟨_, rfl, rfl, by rw [hpc]; decide, by rw [hpc]; decide⟩, by decide, by decide⟩

theorem witness_ProtectedRegionIsImmutable :
    midSta.mem.wf = true ∧ (∃ t, steps 2 midSta = .next t) ∧ (0x8000 : Nat) ≤ 0x8000 ∧ (0xFFFF : Nat) < 65536 :=
  ⟨by decide, ⟨_, rfl⟩, by decide, by decide⟩

/-- The cycle-step that ends an LDA, and one that does not; `I` set and `D` clear before. -/
theorem witness_RegistersAndFlagsChangeOnlyAsGiven :
    (∃ t, step { resting .operand 0xA9#8 0xC001#16 [] with i := true } = .next t) ∧
    (resting .operand 0xA9#8 0xC001#16 []).phase = .operand ∧ (resting .operand 0xA9#8 0xC001#16 []).ir = 0xA9#8 ∧
    (resting .operand 0xA9#8 0xC001#16 []).d = false ∧ (∃ t, step midSta = .next t) ∧ midSta.ir ≠ 0xA9#8 :=
  ⟨⟨_, rfl⟩, rfl, rfl, rfl, ⟨_, rfl⟩, by decide⟩

/-- A cycle-step for each clause, `PC` at the wrap. -/
theorem witness_PcMovesOnlyForward :
    (∃ t, step (resting .fetch 0x00#8 0xFFFF#16 []) = .next t) ∧ (∃ t, step (resting .settle 0x78#8 0xFFFF#16 []) = .next t) ∧
    (∃ t, step (resting .decode 0x78#8 0xFFFF#16 []) = .next t) ∧
    (∃ t, step (resting .operand 0x8D#8 0xFFFF#16 []) = .next t) ∧
    (∃ t, step (resting .operand 0xA9#8 0xFFFF#16 []) = .next t) :=
  ⟨⟨_, rfl⟩, ⟨_, rfl⟩, ⟨_, rfl⟩, ⟨_, rfl⟩, ⟨_, rfl⟩⟩

/-- A cycle-step that writes, and one that makes no access. -/
theorem witness_MemoryChangesOnlyByTheAccess :
    midSta.mem.wf = true ∧ (∃ t, step midSta = .next t) ∧ midSta.access = some (.write 0x7FFF#16 0x42#8) ∧
    (∃ t, step (resting .decode 0x78#8 0xC001#16 []) = .next t) ∧
    (resting .decode 0x78#8 0xC001#16 []).access = none :=
  ⟨by decide, ⟨_, rfl⟩, by decide, ⟨_, rfl⟩, by decide⟩

/-- Two memories that agree on the byte read and differ elsewhere; the cycle-step that writes; and the failing one. -/
theorem witness_StepDependsOnTheByteItReads :
    (resting .fetch 0x00#8 0xC000#16 [(0xC000, 0xA9#8)]).access = some (.read 0xC000#16) ∧
    Memory.readByte [(0x0000, 0x55#8), (0xC000, 0xA9#8)] (0xC000#16 : Addr).toNat =
      Memory.readByte [(0xC000, 0xA9#8)] (0xC000#16 : Addr).toNat ∧
    (∃ t, step (resting .fetch 0x00#8 0xC000#16 [(0xC000, 0xA9#8)]) = .next t) ∧
    midSta.access = some (.write 0x7FFF#16 0x42#8) ∧ fetchedEA.access = none ∧
    step fetchedEA = .fault (.unimplementedOpcode 0xEA#8 0xC000#16 fetchedEA.halt) :=
  ⟨by decide, by decide, ⟨_, rfl⟩, by decide, by decide, rfl⟩

theorem witness_InertRegistersAndFlagsInfluenceNothing :
    (∃ t, steps 2 midSta = .next t) ∧
    steps 1 fetchedEA = .fault (.unimplementedOpcode 0xEA#8 0xC000#16 fetchedEA.halt) := ⟨⟨_, rfl⟩, rfl⟩

/-- T8: an STA at `0x0010` whose target is `0x0013`, the next opcode. -/
theorem witness_StoreIsSeenByTheNextFetch :
    (let s := { resting .operand 0x8D#8 0x0012#16 [(0x0010, 0x8D#8), (0x0011, 0x13#8)] with oplo := 0x13#8 }
     s.mem.wf = true ∧ s.phase = .operand ∧ s.ir = 0x8D#8 ∧ s.rem = 0 ∧ joinBytes s.oplo s.dl = s.pc + 1#16 ∧
     (s.pc + 1#16).toNat < 0x8000) := by decide

/-- L6 (the opcode at `0xFFFF`, the operand at `0x0000`), from each of the three phases of a boundary. -/
theorem witness_LdaAsAWhole :
    ∀ s ∈ [resting .fetch 0x00#8 0xFFFF#16 [(0xFFFF, 0xA9#8)], resting .settle 0x78#8 0xFFFF#16 [(0xFFFF, 0xA9#8)],
        resting .decode 0xA9#8 0x0000#16 [(0xFFFF, 0xA9#8)]],
      s.atBoundary = true ∧ s.mem.readByte s.arch.pc.toNat = 0xA9#8 ∧
      s.mem.readByte (s.arch.pc + 1#16).toNat = 0x00#8 := by decide

/-- The same LDA after its opcode fetch, from phase `SETTLE` and at the end of another LDA. -/
theorem witness_LdaEffectLandsInTheThirdCycle :
    (∃ t, step (resting .settle 0x78#8 0xFFFF#16 [(0xFFFF, 0xA9#8)]) = .next t ∧ t.phase = .decode ∧ t.ir = 0xA9#8) ∧
    (∃ t, step (resting .operand 0xA9#8 0xFFFE#16 [(0xFFFD, 0xA9#8), (0xFFFF, 0xA9#8)]) = .next t ∧
      t.phase = .decode ∧ t.ir = 0xA9#8) := ⟨⟨_, rfl, rfl, rfl⟩, ⟨_, rfl, rfl, rfl⟩⟩

/-- T7 (the operand straddles the wrap), T3 (a discarded store), and an STA after an LDA. -/
theorem witness_StaAsAWhole :
    ∀ s ∈ [resting .fetch 0x00#8 0xFFFE#16 [(0xFFFE, 0x8D#8), (0xFFFF, 0x10#8)],
        resting .settle 0x8D#8 0xC000#16 [(0xC000, 0x8D#8), (0xC002, 0x80#8)],
        resting .decode 0x8D#8 0xC003#16 [(0xC002, 0x8D#8)]],
      s.atBoundary = true ∧ s.mem.readByte s.arch.pc.toNat = 0x8D#8 := by decide

/-- W7 (at `0xFFFF`), W3, and each after an LDA. -/
theorem witness_SeiAndCldAsWholes :
    (∀ s ∈ [resting .fetch 0x00#8 0xFFFF#16 [(0xFFFF, 0x78#8)], resting .decode 0x78#8 0x0000#16 [(0xFFFF, 0x78#8)]],
      s.atBoundary = true ∧ s.mem.readByte s.arch.pc.toNat = 0x78#8) ∧
    (∀ s ∈ [{ resting .settle 0x78#8 0xC001#16 [(0xC001, 0xD8#8)] with d := true },
        resting .decode 0xD8#8 0xC003#16 [(0xC002, 0xD8#8)]],
      s.atBoundary = true ∧ s.mem.readByte s.arch.pc.toNat = 0xD8#8) := by decide

/-- A row of R130 for each registered opcode, and an unregistered one, fetched from `SETTLE` and at the end of an LDA. -/
theorem witness_CycleCounts :
    (∀ row ∈ [((0xA9#8 : Byte), 2), (0x8D#8, 4), (0x78#8, 2), (0xD8#8, 2)],
      (row.1, row.2) ∈ [((0xA9#8 : Byte), 2), (0x8D#8, 4), (0x78#8, 2), (0xD8#8, 2)]) ∧
    (∀ b : Byte, ∃ t, step (resting .settle 0x8D#8 0x0000#16 [(0x0000, b)]) = .next t ∧ t.phase = .decode ∧ t.ir = b) ∧
    (∃ t, step (resting .operand 0xA9#8 0x7FFF#16 [(0xC000, 0x78#8)]) = .next t ∧ t.phase = .decode ∧ t.ir = 0x00#8) ∧
    (resting .fetch 0x00#8 0x0000#16 []).phase = .fetch ∧ dispatchTable 0x00#8 = none :=
  ⟨by decide, fun b => ⟨(resting .settle 0x8D#8 0x0000#16 [(0x0000, b)]).fetchOpcode, rfl, rfl, rfl⟩,
    ⟨_, rfl, rfl, rfl⟩, rfl, rfl⟩

/-- From reset with an SEI placed, one instruction as a whole runs; from reset itself the first opcode is unregistered. -/
theorem witness_CycleStepsRefineWholeInstructions :
    (State.reset.withFetchWord 8 0x78).atBoundary = true ∧
    (∃ p, wholeSteps 1 (State.reset.withFetchWord 8 0x78).arch = .ok p) ∧
    State.reset.atBoundary = true ∧ wholeSteps 1 State.reset.arch = .error ⟨0x00#8, 0x0000#16⟩ ∧
    (resting .decode 0x78#8 0xC001#16 [(0xC000, 0x78#8)]).atBoundary = true :=
  ⟨rfl, ⟨_, rfl⟩, rfl, rfl, rfl⟩

theorem witness_TickOfOneExecutorIsOneStep :
    (∃ t, step midSta = .next t) ∧
    step fetchedEA = .fault (.unimplementedOpcode 0xEA#8 0xC000#16 fetchedEA.halt) ∧
    step fetchedEA.halt = .refused .executorHalted := ⟨⟨_, rfl⟩, rfl, rfl⟩

/-- Two executors, two steps each. -/
theorem witness_TicksGiveEveryExecutorTheSameSteps :
    ∃ after : List State, List.Forall₂ (fun s t => steps 2 s = .next t) [midSta, midSta] after :=
  ⟨_, .cons rfl (.cons rfl .nil)⟩

/-- One executor before the failing one, and one after it. -/
theorem witness_FailingTickLeavesOtherExecutorsAlone :
    (∃ after : List State, List.Forall₂ (fun u v => step u = .next v) [midSta] after) ∧
    step fetchedEA = .fault (.unimplementedOpcode 0xEA#8 0xC000#16 fetchedEA.halt) := ⟨⟨_, .cons rfl .nil⟩, rfl⟩

theorem witness_TickRequiresNoHaltedExecutor :
    fetchedEA.halt ∈ (Clock.mk [midSta, fetchedEA.halt]).executors ∧ fetchedEA.halt.phase = .halted :=
  ⟨.tail _ (.head _), rfl⟩

end Sys2Proof.Tests
end

section
/-! SUPPORT. The unbacked region `0x8000..0xBFFF` (R47): what a cycle-step does to memory, the read an opcode fetch makes,
and the memory facts that hold after reset and after any number of cycle-steps. -/

namespace Sys2Proof.Machine

/-- What every cycle-step keeps holds after any number of them. -/
theorem steps_keep {P : State → Prop} (keep : ∀ {t u : State}, P t → step t = .next u → P u) :
    ∀ {k : Nat} {t u : State}, P t → steps k t = .next u → P u
  | 0, _, _, ht, h => by cases h; exact ht
  | k + 1, t, _, ht, h => by
    rw [steps] at h
    cases hs : step t with
    | next v => rw [hs] at h; exact steps_keep keep (keep ht hs) h
    | fault r => rw [hs] at h; cases h
    | refused r => rw [hs] at h; cases h

/-- The store of STA (R76) is the one way a cycle-step changes memory. -/
theorem step_mem {t u : State} (h : step t = .next u) :
    u.mem = t.mem ∨ u.mem = t.mem.writeByte (joinBytes t.oplo t.dl).toNat t.a := by
  rcases step_cases h with ⟨-, rfl⟩ | ⟨-, -, rfl⟩ | ⟨-, -, rfl⟩ | ⟨-, -, rfl⟩ | ⟨-, -, rfl⟩ | ⟨-, -, rfl⟩ |
    ⟨-, -, -, rfl⟩ | ⟨-, -, -, rfl⟩
  exacts [.inl rfl, .inl rfl, .inl rfl, .inl rfl, .inl rfl, .inl rfl, .inl rfl, .inr rfl]

/-- A cycle-step keeps the canonical form of memory. -/
theorem step_mem_wf {t u : State} (hm : t.mem.wf = true) (h : step t = .next u) : u.mem.wf = true := by
  rcases step_mem h with e | e <;> rw [e]
  · exact hm
  · exact writeByte_wf hm _ _

/-- A program's write leaves the protected region as it was (R37). -/
theorem readByte_writeByte_protected {m : Memory} (hm : m.wf = true) (a : Nat) (v : Byte) {b : Nat}
    (hb : Config.roBase ≤ b % Config.memSize) : (m.writeByte a v).readByte b = m.readByte b := by
  rw [Memory.readByte, cell_writeByte hm, if_neg (by omega), ← Memory.readByte]

/-- A cycle-step leaves the protected region as it was (R37). -/
theorem step_readByte_protected {t u : State} (hm : t.mem.wf = true) (h : step t = .next u) {b : Nat}
    (hb : Config.roBase ≤ b % Config.memSize) : u.mem.readByte b = t.mem.readByte b := by
  rcases step_mem h with e | e <;> rw [e]
  exact readByte_writeByte_protected hm _ _ hb

/-- The memory part of the invariant: the canonical form, and the unbacked region blank. -/
def State.MemInv (t : State) : Prop := t.mem.wf = true ∧ t.mem.UnbackedBlank

/-- Reset loads the image above the unbacked region (R38, R118). -/
theorem engineAtReset_memInv (draw : ResetDraw) {image : List Byte} (h : image.length = Config.imageLen) :
    (engineAtReset draw image).MemInv := by
  refine ⟨loadImage_blank_wf h, fun b _ hb => ?_⟩
  have hlt : b < Config.memSize := by simp only [Config.memSize]; omega
  have hbase : ¬ Config.imageBase ≤ b := by simp only [Config.imageBase]; omega
  calc (Memory.loadImage [] image).readByte b
      = (Memory.loadImage [] image).cell b := readByte_of_lt hlt
    _ = Config.blankByte := by rw [cell_loadImage_blank, if_neg hbase]

/-- Every cycle-step keeps the memory part of the invariant: the unbacked region is protected. -/
theorem step_memInv {t u : State} (ht : t.MemInv) (h : step t = .next u) : u.MemInv := by
  obtain ⟨hwf, hblank⟩ := ht
  refine ⟨step_mem_wf hwf h, fun b hlo hhi => ?_⟩
  have hb : Config.roBase ≤ b % Config.memSize := by simp only [Config.roBase, Config.memSize]; omega
  rw [step_readByte_protected hwf h hb]
  exact hblank b hlo hhi

/-- The opcode fetch latches the byte at the address it leaves behind `PC` (R72). -/
theorem fetchOpcode_ir (t : State) : t.fetchOpcode.ir = t.mem.readByte (t.fetchOpcode.pc - 1#16).toNat := by
  simp [fetchOpcode_eq, State.load]

/-- A cycle-step that ends in phase `DECODE` has fetched an opcode, from whatever phase: the byte at `PC - 1` (R72,
R74). -/
theorem step_fetched_ir {t u : State} (h : step t = .next u) (hu : u.phase = .decode) :
    u.ir = t.mem.readByte (u.pc - 1#16).toNat := by
  rcases step_cases h with ⟨-, rfl⟩ | ⟨-, -, rfl⟩ | ⟨-, -, rfl⟩ | ⟨-, -, rfl⟩ | ⟨-, -, rfl⟩ | ⟨-, -, rfl⟩ |
    ⟨-, -, -, rfl⟩ | ⟨-, -, -, rfl⟩
  · exact fetchOpcode_ir t
  · cases hu
  · cases hu
  · cases hu
  · cases hu
  · exact fetchOpcode_ir (loadA t.dl t.advancePc)
  · cases hu
  · cases hu

/-- The dispatch of an unregistered opcode fails (R73, R101). -/
theorem step_unregistered {t : State} (hp : t.phase = .decode) (hop : dispatchTable t.ir = none) :
    step t = .fault (.unimplementedOpcode t.ir (t.pc - 1#16) t.halt) := by
  rw [step_decode hp, hop]; rfl

end Sys2Proof.Machine

namespace Sys2Proof.Proofs

open Sys2Proof.Machine

/-- Settles O31: the memory part of the invariant holds after reset and every cycle-step keeps it; a fetch from the region
then reads `0x00`, which no table row registers. -/
theorem unbackedRegionAlwaysReadsZero : Obligations.UnbackedRegionAlwaysReadsZero := by
  intro draw image k s hlen hs
  obtain ⟨-, hblank⟩ : s.MemInv := steps_keep step_memInv (engineAtReset_memInv draw hlen) hs
  refine ⟨hblank, fun u hu hp hlo hhi => ?_⟩
  have hir : u.ir = 0x00#8 := (step_fetched_ir hu hp).trans (hblank _ hlo hhi)
  have hop : dispatchTable u.ir = none := by rw [hir]; decide
  exact ⟨hir, _, step_unregistered hp hop⟩

end Sys2Proof.Proofs
end

section
/-! SUPPORT. The 252 unregistered opcode values (R59): which they are, that no bytes after one make it an instruction, and
that a halted executor has no next state, however often it is stepped. -/

namespace Sys2Proof

/-- The unregistered opcode values are the five gaps that the four registered ones leave (R59). -/
theorem dispatchTable_none_iff_gaps (b : Byte) :
    dispatchTable b = none ↔
      b.toNat ≤ 0x77 ∨ (0x79 ≤ b.toNat ∧ b.toNat ≤ 0x8C) ∨ (0x8E ≤ b.toNat ∧ b.toNat ≤ 0xA8) ∨
      (0xAA ≤ b.toNat ∧ b.toNat ≤ 0xD7) ∨ 0xD9 ≤ b.toNat := by
  rw [dispatchTable_none]
  simp only [ne_eq, ← BitVec.toNat_inj, BitVec.toNat_ofNat]
  omega

/-- Whatever follows an unregistered opcode, the bytes do not decode (R54, R59). -/
theorem decode_unregistered {b : Byte} (hop : dispatchTable b = none) (rest : List Byte) :
    decode (b :: rest) = .error (.unimplemented b) := by
  rw [decode_cons, hop]

namespace Machine

/-- Every run of a halted executor, of one cycle-step or more, is refused (R77, R106). -/
theorem steps_halted {t : State} (h : t.phase = .halted) (k : Nat) : steps (k + 1) t = .refused .executorHalted := by
  rw [steps, step_halted h]

end Machine

end Sys2Proof

namespace Sys2Proof.Proofs

open Sys2Proof.Machine

/-- Settles O5: the fetch does not consult the table, the dispatch of an unregistered opcode raises the failure, and what
that leaves is halted. -/
theorem unregisteredOpcodeIsAHardStop : Obligations.UnregisteredOpcodeIsAHardStop := by
  refine ⟨dispatchTable_none_iff_gaps, by decide, fun b hlda hsta hsei hcld => ?_⟩
  have hop : dispatchTable b = none := dispatchTable_none.mpr ⟨hlda, hsta, hsei, hcld⟩
  refine ⟨decode_unregistered hop, fun s hp hb => ?_, fun u hp hir => ?_⟩
  · exact ⟨s.fetchOpcode, step_fetch hp, rfl, hb⟩
  · have hfail := step_unregistered hp (hir.symm ▸ hop)
    refine ⟨_, _, u.halt, hfail, fun k t hk => ?_⟩
    rw [steps_halted rfl] at hk
    cases hk

end Sys2Proof.Proofs
end

section
/-! SUPPORT. The flag logic (R87): the two derived values as the bits and ranges of the byte they are read from, and what
`UpdateFromResult` leaves in the two flags. -/

namespace Sys2Proof.Machine

/-- `Z` as a condition on the byte's value. -/
theorem isZero_eq_decide_toNat (v : Byte) : isZero v = decide (v.toNat = 0) := by
  rw [Bool.eq_iff_iff, decide_eq_true_iff, isZero, beq_iff_eq]
  exact BitVec.toNat_inj.symm

/-- The mask of R87 selects bit 7. -/
theorem isNegative_eq_getLsbD (v : Byte) : isNegative v = v.getLsbD 7 := by
  have hmask : v &&& 0x80#8 = if v.getLsbD 7 then 0x80#8 else 0x00#8 := BitVec.and_twoPow v 7
  rw [isNegative, hmask]
  cases v.getLsbD 7 <;> rfl

/-- `N` as a condition on the byte's value: bit 7 is the most significant one. -/
theorem isNegative_eq_decide_toNat (v : Byte) : isNegative v = decide (0x80 ≤ v.toNat) := by
  rw [isNegative_eq_getLsbD]
  exact (BitVec.msb_eq_getLsbD_last v).symm.trans (BitVec.msb_eq_decide v)

@[simp] theorem updateFromResult_z (v : Byte) (t : State) : (updateFromResult v t).2.z = isZero v := rfl

@[simp] theorem updateFromResult_n (v : Byte) (t : State) : (updateFromResult v t).2.n = isNegative v := rfl

/-- Everything `UpdateFromResult` does, `N` as the byte's bit 7 (R87). -/
theorem updateFromResult_eq (v : Byte) (t : State) :
    updateFromResult v t = (v, { t with z := decide (v = 0x00#8), n := v.getLsbD 7 }) := by
  rw [← isNegative_eq_getLsbD]; rfl

end Sys2Proof.Machine

namespace Sys2Proof.Proofs

open Sys2Proof.Machine

/-- Settles O9: the flags are the two derived values, and these are conditions on the byte's value. -/
theorem updateFromResultDerivesZeroAndNegative : Obligations.UpdateFromResultDerivesZeroAndNegative := by
  intro v s
  simp only [updateFromResult_z, updateFromResult_n, isZero_eq_decide_toNat, isNegative_eq_decide_toNat,
    decide_eq_true_eq, decide_eq_false_iff_not]
  refine ⟨updateFromResult_eq v s, fun hzero => ?_, fun hlo hhi => ?_, fun hneg => ?_⟩
  · exact ⟨hzero, by omega⟩
  · exact ⟨by omega, by omega⟩
  · exact ⟨by omega, hneg⟩

end Sys2Proof.Proofs
end

section
/-! SUPPORT. When the unimplemented-opcode failure is raised (R101), and that the cycle-step raising it makes no memory
access (R78). -/

namespace Sys2Proof.Machine

/-- The dispatch of an unregistered opcode is the one failing cycle-step (R101). -/
theorem step_fault_iff {t : State} {r : Fault} :
    step t = .fault r ↔
      t.phase = .decode ∧ dispatchTable t.ir = none ∧ r = .unimplementedOpcode t.ir (t.pc - 1#16) t.halt := by
  constructor
  · exact step_fault_cases
  · rintro ⟨hp, hop, rfl⟩
    exact step_unregistered hp hop

/-- The dispatch of an unregistered opcode makes no memory access (R78). -/
theorem access_unregistered {t : State} (hp : t.phase = .decode) (hop : dispatchTable t.ir = none) :
    t.access = none := by
  simp only [State.access, hp, hop]

/-- The failure leaves memory as it was (R103). -/
@[simp] theorem State.halt_mem (t : State) : t.halt.mem = t.mem := rfl

end Sys2Proof.Machine

namespace Sys2Proof.Proofs

open Sys2Proof.Machine

/-- Settles O21: the failing cycle-steps are the dispatches of an unregistered opcode, which access no memory, and the
opcode fetch completes whatever byte it reads. -/
theorem failureRaisedExactlyByUnregisteredDispatch : Obligations.FailureRaisedExactlyByUnregisteredDispatch := by
  refine ⟨fun s => ?_, fun s left opcode fetchedAt h => ?_, fun s hp => ?_⟩
  · simp only [step_fault_iff, exists_and_left, exists_eq, and_true, dispatchTable_none]
  · obtain ⟨hp, hop, hf⟩ := step_fault_iff.mp h
    obtain ⟨-, -, rfl⟩ := Fault.unimplementedOpcode.inj hf
    exact ⟨access_unregistered hp hop, s.halt_mem⟩
  · exact ⟨s.fetchOpcode, step_fetch hp, rfl, rfl⟩

end Sys2Proof.Proofs
end

section
/-! SUPPORT. The reset vector (R119): what the image load leaves at each address of the image, a machine for every image of
full length, and an image for every vector. -/

namespace Sys2Proof

/-- `hi : lo` as a number (R57). -/
theorem joinBytes_toNat (lo hi : Byte) : (joinBytes lo hi).toNat = lo.toNat + 256 * hi.toNat := by
  rw [joinBytes, BitVec.toNat_append, ← Nat.shiftLeft_add_eq_or_of_lt lo.isLt, Nat.shiftLeft_eq]
  omega

namespace Machine

/-- An image of full length constructs a machine with one executor (R118). -/
theorem resetMachine_fullLength (draw : ResetDraw) {image : List Byte} (h : image.length = Config.imageLen) :
    resetMachine draw image = .constructed ⟨[engineAtReset draw image]⟩ :=
  if_pos (beq_iff_eq.mpr h)

/-- Byte `k` of the image reads back at `0xC000 + k` (R38). -/
theorem readByte_loadImage_blank (image : List Byte) {k : Nat} (hk : k < Config.imageLen) :
    (Memory.loadImage [] image).readByte (Config.imageBase + k) = image.getD k Config.blankByte := by
  have hlt : Config.imageBase + k < Config.memSize := Nat.add_lt_add_left hk Config.imageBase
  rw [readByte_of_lt hlt, cell_loadImage_blank, if_pos (Nat.le_add_right _ _), Nat.add_sub_cancel_left]

/-- `PC` at reset in terms of the image (R119). -/
theorem engineAtReset_pc (draw : ResetDraw) (image : List Byte) :
    (engineAtReset draw image).pc = joinBytes (image.getD 0x3FFC Config.blankByte) (image.getD 0x3FFD Config.blankByte) :=
  congrArg₂ joinBytes (readByte_loadImage_blank image (k := 0x3FFC) (by decide))
    (readByte_loadImage_blank image (k := 0x3FFD) (by decide))

/-- An image whose vector is `v`, all its other bytes zero. -/
def imageWithVector (v : Addr) : List Byte :=
  List.replicate 0x3FFC 0x00#8 ++ [lowByte v, highByte v, 0x00#8, 0x00#8]

theorem imageWithVector_length (v : Addr) : (imageWithVector v).length = Config.imageLen := by
  rw [imageWithVector, List.length_append, List.length_replicate]; rfl

/-- From byte `0x3FFC` on the image holds the vector. -/
theorem imageWithVector_getD (v : Addr) (k : Nat) (b : Byte) :
    (imageWithVector v).getD (0x3FFC + k) b = [lowByte v, highByte v, 0x00#8, 0x00#8].getD k b := by
  rw [imageWithVector, List.getD_append_right _ _ _ _ (by rw [List.length_replicate]; omega), List.length_replicate,
    Nat.add_sub_cancel_left]

/-- Reset with that image starts at `v`. -/
theorem engineAtReset_imageWithVector_pc (draw : ResetDraw) (v : Addr) :
    (engineAtReset draw (imageWithVector v)).pc = v :=
  calc (engineAtReset draw (imageWithVector v)).pc
      = joinBytes (lowByte v) (highByte v) :=
        (engineAtReset_pc draw _).trans
          (congrArg₂ joinBytes (imageWithVector_getD v 0 _) (imageWithVector_getD v 1 _))
    _ = v := joinBytes_low_high v

end Machine

end Sys2Proof

namespace Sys2Proof.Proofs

open Sys2Proof.Machine

/-- Settles O10: `PC` is the word read at the vector of the loaded image, and an image can hold any vector there. -/
theorem resetLoadsTheVector : Obligations.ResetLoadsTheVector := by
  refine ⟨fun draw image hlen => ?_, fun draw v => ?_⟩
  · refine ⟨_, resetMachine_fullLength draw hlen, ?_, ?_, ?_⟩
    · exact joinBytes_toNat _ _
    · exact readByte_loadImage_blank image (k := 0x3FFC) (by decide)
    · exact readByte_loadImage_blank image (k := 0x3FFD) (by decide)
  · exact ⟨_, _, resetMachine_fullLength draw (imageWithVector_length v), engineAtReset_imageWithVector_pc draw v⟩

end Sys2Proof.Proofs
end

section
/-! SUPPORT. The cycle counts of R130: how many cycle-steps the next opcode fetch is away, from each place where an
instruction suspends, counted backwards from the fetch that ends it. -/

namespace Sys2Proof.Machine

/-- The next opcode fetch is made in the `c`-th cycle-step from `t`: the steps before it answer next states that rest
outside phase `DECODE`. -/
def State.FetchesOpcodeIn (c : Nat) (t : State) : Prop :=
  (∀ j : Nat, 1 ≤ j → j < c → ∃ u : State, steps j t = .next u ∧ u.phase ≠ .decode) ∧
  (∃ u : State, steps c t = .next u ∧ u.phase = .decode)

/-- A run continues from what its first cycle-step answers. -/
theorem steps_succ_of_next {t u : State} (h : step t = .next u) (k : Nat) : steps (k + 1) t = steps k u := by
  rw [steps, h]

/-- A cycle-step that comes to rest in phase `DECODE` is the opcode fetch (R72, R74). -/
theorem fetchesOpcodeIn_one {t u : State} (h : step t = .next u) (hu : u.phase = .decode) : t.FetchesOpcodeIn 1 :=
  ⟨fun _ hlo hhi => absurd hhi (Nat.not_lt.mpr hlo), u, steps_succ_of_next h 0, hu⟩

/-- A cycle-step that fetches no opcode makes the count one more. -/
theorem fetchesOpcodeIn_succ {t u : State} {c : Nat} (h : step t = .next u) (hu : u.phase ≠ .decode)
    (hc : u.FetchesOpcodeIn c) : t.FetchesOpcodeIn (c + 1) := by
  obtain ⟨hbefore, v, hv, hvp⟩ := hc
  refine ⟨fun j hlo hhi => ?_, v, (steps_succ_of_next h c).trans hv, hvp⟩
  obtain ⟨k, rfl⟩ := Nat.exists_eq_add_of_le' hlo
  rw [steps_succ_of_next h k]
  cases k with
  | zero => exact ⟨u, rfl, hu⟩
  | succ k => exact hbefore (k + 1) (Nat.succ_pos k) (Nat.lt_of_succ_lt_succ hhi)

/-- The settle cycle is followed by the fetch (R72). -/
theorem settle_fetchesOpcodeIn {t : State} (hp : t.phase = .settle) : t.FetchesOpcodeIn 1 :=
  fetchesOpcodeIn_one (step_fetch (.inr hp)) rfl

/-- LDA's effect is fused with the next fetch (R74). -/
theorem operand_lda_fetchesOpcodeIn {t : State} (hp : t.phase = .operand) (hop : dispatchTable t.ir = some .lda) :
    t.FetchesOpcodeIn 1 :=
  fetchesOpcodeIn_one (u := (loadA t.dl t.advancePc).fetchOpcode) (by rw [step_operand hp, hop]) rfl

/-- STA's store ends in the settle cycle (R76). -/
theorem operand_sta_store_fetchesOpcodeIn {t : State} (hp : t.phase = .operand) (hop : dispatchTable t.ir = some .sta)
    (hrem : t.rem = 0) : t.FetchesOpcodeIn 2 :=
  fetchesOpcodeIn_succ (u := (t.advancePc.store (joinBytes t.oplo t.dl) t.a).suspendIn .settle)
    (by simp [step_operand hp, hop, hrem]) nofun (settle_fetchesOpcodeIn rfl)

/-- STA's high byte is read before the store (R75). -/
theorem operand_sta_high_fetchesOpcodeIn {t : State} (hp : t.phase = .operand) (hop : dispatchTable t.ir = some .sta)
    (hrem : t.rem = 1) : t.FetchesOpcodeIn 3 :=
  fetchesOpcodeIn_succ (u := (t.advancePc.deliverLow t.dl).beginFetch (t.load (t.pc + 1#16)) 0)
    (by simp [step_operand hp, hop, hrem]) nofun (operand_sta_store_fetchesOpcodeIn rfl hop rfl)

/-- From the dispatch of a registered opcode the next fetch is as many cycle-steps away as its row of the opcode table
says (R58, R130). -/
theorem decode_fetchesOpcodeIn {t : State} {op : Op} (hp : t.phase = .decode) (hop : dispatchTable t.ir = some op) :
    t.FetchesOpcodeIn op.row.cycles := by
  have hstep := step_decode hp
  rw [hop] at hstep
  cases op with
  | lda => exact fetchesOpcodeIn_succ hstep nofun (operand_lda_fetchesOpcodeIn rfl hop)
  | sta => exact fetchesOpcodeIn_succ hstep nofun (operand_sta_high_fetchesOpcodeIn rfl hop rfl)
  | sei => exact fetchesOpcodeIn_succ hstep nofun (settle_fetchesOpcodeIn rfl)
  | cld => exact fetchesOpcodeIn_succ hstep nofun (settle_fetchesOpcodeIn rfl)

/-- The written-out table of R130 gives registered opcodes, with the counts of the opcode table. -/
theorem dispatchTable_of_mem_cycleCounts {b : Byte} {c : Nat}
    (h : (b, c) ∈ [(0xA9#8, 2), (0x8D#8, 4), (0x78#8, 2), (0xD8#8, 2)]) :
    ∃ op : Op, dispatchTable b = some op ∧ op.row.cycles = c := by
  simp only [List.mem_cons, Prod.mk.injEq, List.not_mem_nil, or_false] at h
  rcases h with ⟨rfl, rfl⟩ | ⟨rfl, rfl⟩ | ⟨rfl, rfl⟩ | ⟨rfl, rfl⟩
  exacts [⟨.lda, dispatchTable_lda, rfl⟩, ⟨.sta, dispatchTable_sta, rfl⟩, ⟨.sei, dispatchTable_sei, rfl⟩,
    ⟨.cld, dispatchTable_cld, rfl⟩]

end Sys2Proof.Machine

namespace Sys2Proof.Proofs

open Sys2Proof.Machine

/-- Settles O43: after an opcode fetch the executor rests in phase `DECODE`, and the count from there is the opcode's. -/
theorem cycleCounts : Obligations.CycleCounts := by
  refine ⟨fun s hp => ?_, fun s t c _ hp hrow => ?_, fun s t _ hp hop => ?_⟩
  · exact ⟨s.fetchOpcode, step_fetch hp, rfl, rfl⟩
  · obtain ⟨op, hop, rfl⟩ := dispatchTable_of_mem_cycleCounts hrow
    exact decode_fetchesOpcodeIn hp hop
  · exact ⟨_, step_unregistered hp hop⟩

end Sys2Proof.Proofs
end

section
/-! SUPPORT. Encoding: the bytes of an instruction against what the decoder reads from them (R53 to R58), and the fields of
an opcode-table word (log entry 18). -/

namespace Sys2Proof

/-- A registered opcode byte is the pattern of its row (R58, R64). -/
theorem pattern_of_dispatchTable {b : Byte} {op : Op} (h : dispatchTable b = some op) : op.row.pattern = b := by
  revert b op; decide

/-- Operand assembly takes the bytes of the encoding that follow the opcode, and no other (R56, R57). -/
theorem encode_of_decodeOperand : ∀ {op : Op} {bs rest : List Byte} {i : Instr},
    decodeOperand op bs = .ok (i, rest) → op.row.pattern :: bs = encode i ++ rest
  | .lda, _ :: _, _, _, h => by cases h; rfl
  | .sta, lo :: hi :: _, _, _, h => by cases h; simp [encode, Op.row]
  | .sei, _, _, _, h => by cases h; rfl
  | .cld, _, _, _, h => by cases h; rfl

/-- The opcode byte selects the row, and operand assembly undoes the encoding of the address (R54, R57). -/
theorem decode_encode (i : Instr) (rest : List Byte) : decode (encode i ++ rest) = .ok (i, rest) := by
  cases i with
  | lda imm => rfl
  | sta addr =>
    calc decode (encode (.sta addr) ++ rest)
        = .ok (.sta (joinBytes (lowByte addr) (highByte addr)), rest) := rfl
      _ = .ok (.sta addr, rest) := by rw [joinBytes_low_high]
  | sei => rfl
  | cld => rfl

/-- The opcode byte is its row's pattern, and operand assembly drops no byte (R54, R64). -/
theorem encode_of_decode {bs rest : List Byte} {i : Instr} (h : decode bs = .ok (i, rest)) : bs = encode i ++ rest := by
  cases bs with
  | nil => cases h
  | cons b bs =>
    rw [decode_cons] at h
    cases hop : dispatchTable b with
    | none => rw [hop] at h; cases h
    | some op =>
      rw [hop] at h
      rw [← pattern_of_dispatchTable hop]
      exact encode_of_decodeOperand h

/-- The address of an absolute operand as a number (R57). -/
theorem joinBytes_eq_ofNat (lo hi : Byte) : joinBytes lo hi = BitVec.ofNat 16 (lo.toNat + 256 * hi.toNat) := by
  rw [← joinBytes_toNat, BitVec.ofNat_toNat, BitVec.setWidth_eq]

/-- The three bytes of an opcode-table word are its fields (R53). -/
theorem wordBytes_of_fields {nbits w : Nat} {b0 b1 b2 : Byte}
    (hw : w = b0.toNat + 256 * b1.toNat + 65536 * b2.toNat) (hlt : w < 2 ^ nbits) : wordBytes nbits w = [b0, b1, b2] := by
  have h0 := b0.isLt
  have h1 := b1.isLt
  have h2 := b2.isLt
  simp only [wordBytes, Nat.mod_eq_of_lt hlt, List.cons.injEq, ← BitVec.toNat_inj, BitVec.toNat_ofNat, and_true]
  omega

/-- What decodes from the bytes of an opcode-table word is what its row stands for. -/
theorem decodeTableWord_eq_some {nbits w : Nat} {i : Instr} :
    decodeTableWord nbits w = some i ↔ ∃ rest : List Byte, decode (wordBytes nbits w) = .ok (i, rest) := by
  rw [decodeTableWord]
  cases decode (wordBytes nbits w) with
  | error e => simp
  | ok r => simp [Prod.ext_iff]

end Sys2Proof

namespace Sys2Proof.Proofs

open Sys2Proof.Machine

/-- Settles O1. -/
theorem decodeInvertsEncode : Obligations.DecodeInvertsEncode := decode_encode

/-- Settles O2. -/
theorem decodedBytesAreTheEncoding : Obligations.DecodedBytesAreTheEncoding := fun _ _ _ => encode_of_decode

/-- Settles O3: each written-out word computes. -/
theorem writtenOutWordsDecode : Obligations.WrittenOutWordsDecode :=
  ⟨rfl, rfl, rfl, rfl, rfl, rfl⟩

/-- Settles O4: the word's bytes are its fields, and the decoder reads these. -/
theorem tableWordFieldsAreRead : Obligations.TableWordFieldsAreRead := by
  refine ⟨fun imm => ?_, fun lo hi => ?_, by decide, by decide⟩
  · have hbytes : wordBytes 16 (0xA9 + 256 * imm.toNat) = [0xA9#8, imm, 0x00#8] :=
      wordBytes_of_fields (by simp) (by omega)
    exact decodeTableWord_eq_some.mpr ⟨_, by rw [hbytes]; rfl⟩
  · have hbytes : wordBytes 24 (0x8D + 256 * lo.toNat + 65536 * hi.toNat) = [0x8D#8, lo, hi] :=
      wordBytes_of_fields (by simp) (by omega)
    exact decodeTableWord_eq_some.mpr ⟨_, by rw [hbytes, ← joinBytes_eq_ofNat]; rfl⟩

end Sys2Proof.Proofs
end

section
/-! SUPPORT. The cycle-steps, one lemma per row of R72 to R76: what each answers, by the phase and the opcode in `IR`. -/

namespace Sys2Proof.Machine

variable {t : State}

/-- R73, `0xA9`: the operand byte of LDA is read. -/
theorem step_decode_lda (hp : t.phase = .decode) (hir : t.ir = 0xA9#8) : step t = .next (t.beginFetch (t.load t.pc) 0) := by
  rw [step_decode hp, hir, dispatchTable_lda]

/-- R73, `0x8D`: the low address byte of STA is read. -/
theorem step_decode_sta (hp : t.phase = .decode) (hir : t.ir = 0x8D#8) : step t = .next (t.beginFetch (t.load t.pc) 1) := by
  rw [step_decode hp, hir, dispatchTable_sta]

/-- R73, `0x78`: SEI takes effect. -/
theorem step_decode_sei (hp : t.phase = .decode) (hir : t.ir = 0x78#8) :
    step t = .next ((t.setI true).suspendIn .settle) := by
  rw [step_decode hp, hir, dispatchTable_sei]

/-- R73, `0xD8`: CLD takes effect. -/
theorem step_decode_cld (hp : t.phase = .decode) (hir : t.ir = 0xD8#8) :
    step t = .next ((t.setD false).suspendIn .settle) := by
  rw [step_decode hp, hir, dispatchTable_cld]

/-- R74: LDA takes effect, and the next opcode is fetched. -/
theorem step_operand_lda (hp : t.phase = .operand) (hir : t.ir = 0xA9#8) :
    step t = .next (loadA t.dl t.advancePc).fetchOpcode := by
  rw [step_operand hp, hir, dispatchTable_lda]

/-- R75: the high address byte of STA is read. -/
theorem step_operand_sta_high (hp : t.phase = .operand) (hir : t.ir = 0x8D#8) (hrem : t.rem = 1) :
    step t = .next ((t.advancePc.deliverLow t.dl).beginFetch (t.load (t.pc + 1#16)) 0) := by
  rw [step_operand hp, hir, dispatchTable_sta, hrem]; rfl

/-- R76: STA stores. -/
theorem step_operand_sta_store (hp : t.phase = .operand) (hir : t.ir = 0x8D#8) (hrem : t.rem ≠ 1) :
    step t = .next ((t.advancePc.store (joinBytes t.oplo t.dl) t.a).suspendIn .settle) := by
  simp [step_operand hp, hir, hrem]

/-- LDA's effect and the fetch fused with it, as one update (R74). -/
theorem fetchOpcode_loadA_eq (t : State) (v : Byte) :
    (loadA v t.advancePc).fetchOpcode =
      { t with a := v, z := isZero v, n := isNegative v, ir := t.load (t.pc + 1#16), pc := t.pc + 2#16,
               phase := .decode } := by
  simp [fetchOpcode_eq, loadA_eq, State.advancePc, State.load, BitVec.add_assoc]

/-- From a phase of the opcode fetch every instruction's cycle-step is that fetch (R84, R86, R89, R91). -/
theorem exec_fetch (hp : t.phase = .fetch ∨ t.phase = .settle) (i : Instr) : exec i t = .next t.fetchOpcode := by
  rcases hp with hp | hp <;> cases i <;> simp [exec, execLda, execSta, execSei, execCld, hp]

/-- No instruction steps a halted executor (R77). -/
theorem exec_halted (hp : t.phase = .halted) (i : Instr) : exec i t = .refused .executorHalted := by
  cases i <;> simp [exec, execLda, execSta, execSei, execCld, hp]

/-- A step is `exec` of the instruction in flight, in every phase. -/
theorem step_eq_exec {i : Instr} {rest : List Byte} (h : decode t.inFlight = .ok (i, rest)) : step t = exec i t := by
  cases hp : t.phase with
  | fetch => rw [step_fetch (.inl hp), exec_fetch (.inl hp)]
  | settle => rw [step_fetch (.inr hp), exec_fetch (.inr hp)]
  | decode => simp only [step, hp, h]
  | operand => simp only [step, hp, h]
  | halted => rw [step_halted hp, exec_halted hp]

theorem inFlight_fetch (hp : t.phase = .fetch ∨ t.phase = .settle) :
    t.inFlight = [t.load t.pc, t.load (t.pc + 1#16), t.load (t.pc + 2#16)] := by
  rcases hp with hp | hp <;> simp only [State.inFlight, hp]

theorem inFlight_decode (hp : t.phase = .decode) : t.inFlight = [t.ir, t.load t.pc, t.load (t.pc + 1#16)] := by
  simp only [State.inFlight, hp]

theorem inFlight_operand_high (hp : t.phase = .operand) (hrem : t.rem = 1) :
    t.inFlight = [t.ir, t.dl, t.load (t.pc + 1#16)] := by
  simp only [State.inFlight, hp, hrem, if_true]

theorem inFlight_operand_sta (hp : t.phase = .operand) (hrem : t.rem = 0) (hir : t.ir = 0x8D#8) :
    t.inFlight = [t.ir, t.oplo, t.dl] := by
  simp [State.inFlight, hp, hrem, hir]

theorem inFlight_operand_of_ne_sta (hp : t.phase = .operand) (hrem : t.rem = 0) (hir : t.ir ≠ 0x8D#8) :
    t.inFlight = [t.ir, t.dl] := by
  have hop : dispatchTable t.ir ≠ some .sta := fun h => hir (pattern_of_dispatchTable h).symm
  simp [State.inFlight, hp, hrem, hop]

end Sys2Proof.Machine

namespace Sys2Proof.Proofs

open Sys2Proof.Machine

/-- Settles O15: the bytes of each clause are those in flight. -/
theorem stepRunsTheDecodedInstruction : Obligations.StepRunsTheDecodedInstruction := by
  intro s i rest
  refine ⟨fun hp h => ?_, fun hp h => ?_, fun hp hrem h => ?_, fun hp hrem hir h => ?_, fun hp hrem hir h => ?_⟩
  · exact step_eq_exec (inFlight_fetch hp ▸ h)
  · exact step_eq_exec (inFlight_decode hp ▸ h)
  · exact step_eq_exec (inFlight_operand_high hp hrem ▸ h)
  · exact step_eq_exec (inFlight_operand_sta hp hrem hir ▸ h)
  · exact step_eq_exec (inFlight_operand_of_ne_sta hp hrem hir ▸ h)

/-- Settles O17: it is the opcode fetch. -/
theorem opcodeFetchCycle : Obligations.OpcodeFetchCycle :=
  fun _ hp => step_fetch hp

/-- Settles O18, by the opcode in `IR`. -/
theorem dispatchCycle : Obligations.DispatchCycle :=
  fun _ hp => ⟨step_decode_lda hp, step_decode_sta hp, step_decode_sei hp, step_decode_cld hp⟩

/-- Settles O19: the effect and the fetch fused with it are one update. -/
theorem ldaEffectCycle : Obligations.LdaEffectCycle := by
  intro s hp hir
  rw [step_operand_lda hp hir, fetchOpcode_loadA_eq, isNegative_eq_getLsbD]
  rfl

/-- Settles O20, by whether a byte is still to come. -/
theorem staOperandAndStoreCycles : Obligations.StaOperandAndStoreCycles := by
  intro s hp hir
  refine ⟨fun hrem => ?_, fun hrem => ?_⟩
  · rw [step_operand_sta_high hp hir hrem, beginFetch_eq, ← hp]; rfl
  · rw [step_operand_sta_store hp hir (by rw [hrem]; decide), ← joinBytes_toNat]; rfl

/-- Settles O22: the dispatch fails, and what it leaves is halted. -/
theorem failureIsPreciseAndPermanent : Obligations.FailureIsPreciseAndPermanent :=
  fun s hp hop => ⟨s.halt, step_unregistered hp hop, halt_eq s, steps_halted rfl⟩

/-- Settles O23: neither the step nor any instruction steps a halted executor. -/
theorem haltedExecutorIsRefused : Obligations.HaltedExecutorIsRefused :=
  fun _ hp => ⟨step_halted hp, exec_halted hp⟩

end Sys2Proof.Proofs
end

section
/-! SUPPORT. The memory controller (20_memory.md): the masked read, the word read, the write protection as a read sees it,
and that the canonical form leaves one representation of each memory. -/

namespace Sys2Proof.Machine

/-- A read masks its address (R35). -/
theorem readByte_mod (m : Memory) (a : Nat) : m.readByte (a % Config.memSize) = m.readByte a := by
  rw [Memory.readByte, Memory.readByte, Nat.mod_mod]

/-- R37 as a read sees it. -/
theorem readByte_writeByte {m : Memory} (hm : m.wf = true) (a : Nat) (v : Byte) {b : Nat} (hb : b < Config.memSize) :
    (m.writeByte a v).readByte b = if b = a ∧ a < Config.roBase then v else m.readByte b := by
  rw [readByte_of_lt hb, readByte_of_lt hb, cell_writeByte hm]

/-- From `0x8000` up a write is discarded (R37). -/
theorem writeByte_protected (m : Memory) {a : Nat} (v : Byte) (ha : Config.roBase ≤ a) : m.writeByte a v = m :=
  if_pos ha

/-- Below `0x8000` a write stores (R37). -/
theorem writeByte_unprotected (m : Memory) {a : Nat} (v : Byte) (ha : a < Config.roBase) :
    m.writeByte a v = m.setCell a v :=
  if_neg (Nat.not_le.mpr ha)

/-- The first cell of a canonical memory is told by a read from every memory that lists nothing up to it. -/
theorem cell_head_ne {lo k : Nat} {v : Byte} {m m' : Memory} (hm : Memory.wfFrom lo ((k, v) :: m) = true)
    (hm' : Memory.wfFrom (k + 1) m' = true) : Memory.cell ((k, v) :: m) k ≠ m'.cell k := by
  obtain ⟨-, -, hv, -⟩ := (wfFrom_cons ..).mp hm
  rwa [cell_cons, if_pos rfl, cell_below (Nat.lt_succ_self k) hm']

/-- Canonical memories with the same bytes are the same list. -/
theorem eq_of_cell_eq : ∀ {lo lo' : Nat} {m m' : Memory}, Memory.wfFrom lo m = true → Memory.wfFrom lo' m' = true →
    (∀ a : Nat, a < Config.memSize → m.cell a = m'.cell a) → m = m'
  | _, _, [], [], _, _, _ => rfl
  | _, _, [], (k, _) :: _, _, hm', h => by
    obtain ⟨-, hk, -, -⟩ := (wfFrom_cons ..).mp hm'
    exact absurd (h k hk).symm (cell_head_ne hm' rfl)
  | _, _, (k, _) :: _, [], hm, _, h => by
    obtain ⟨-, hk, -, -⟩ := (wfFrom_cons ..).mp hm
    exact absurd (h k hk) (cell_head_ne hm rfl)
  | _, _, (k, v) :: m, (k', v') :: m', hm, hm', h => by
    obtain ⟨-, hk, hv, htail⟩ := (wfFrom_cons ..).mp hm
    obtain ⟨-, hk', hv', htail'⟩ := (wfFrom_cons ..).mp hm'
    rcases Nat.lt_trichotomy k k' with hlt | rfl | hgt
    · exact absurd (h k hk) (cell_head_ne hm ((wfFrom_cons ..).mpr ⟨hlt, hk', hv', htail'⟩))
    · have hvv : v = v' := by simpa [cell_cons] using h k hk
      have htails : m = m' := eq_of_cell_eq htail htail' fun a ha => by
        rcases Nat.lt_or_ge k a with hka | hka
        · simpa [cell_cons, hka.ne] using h a ha
        · rw [cell_below (Nat.lt_succ_of_le hka) htail, cell_below (Nat.lt_succ_of_le hka) htail']
      rw [hvv, htails]
    · exact absurd (h k' hk').symm (cell_head_ne hm' ((wfFrom_cons ..).mpr ⟨hgt, hk, hv, htail⟩))

end Sys2Proof.Machine

namespace Sys2Proof.Proofs

open Sys2Proof.Machine

/-- Settles O6: the mask forgets a whole turn of the address space, and a word is its two bytes. -/
theorem wordReadIsLittleEndian : Obligations.WordReadIsLittleEndian := by
  refine ⟨fun m a => ?_, fun m a => joinBytes_toNat _ _, fun m => joinBytes_toNat _ _⟩
  rw [← readByte_mod, Config.memSize, Nat.add_mod_right]
  exact readByte_mod m a

/-- Settles O8: reads at the addresses of the array are its cells. -/
theorem canonicalMemoriesReadingAlikeAreEqual : Obligations.CanonicalMemoriesReadingAlikeAreEqual := by
  intro m m' hm hm' h
  refine eq_of_cell_eq hm hm' fun a ha => ?_
  rw [← readByte_of_lt ha, ← readByte_of_lt ha]
  exact h a ha

end Sys2Proof.Proofs
end

section
/-! SUPPORT. The meanings of the four instructions: what `exec` answers in each phase, everything it can answer, and what
that leaves unchanged. -/

namespace Sys2Proof.Machine

variable {t u : State}

theorem exec_lda_decode (hp : t.phase = .decode) (imm : Byte) : exec (.lda imm) t = .next (t.beginFetch imm 0) := by
  simp [exec, execLda, hp, beginImmediate]

theorem exec_lda_operand (hp : t.phase = .operand) (imm : Byte) :
    exec (.lda imm) t = .next (loadA imm t.advancePc).fetchOpcode := by
  simp [exec, execLda, hp, endImmediate]

theorem exec_sta_decode (hp : t.phase = .decode) (addr : Addr) :
    exec (.sta addr) t = .next (t.beginFetch (lowByte addr) 1) := by
  simp [exec, execSta, hp, beginAbsolute]

theorem exec_sta_high (hp : t.phase = .operand) (hrem : t.rem = 1) (addr : Addr) :
    exec (.sta addr) t = .next (middleAbsolute addr t) := by
  simp [exec, execSta, hp, hrem]

theorem exec_sta_store (hp : t.phase = .operand) (hrem : t.rem ≠ 1) (addr : Addr) :
    exec (.sta addr) t = .next ((t.advancePc.store addr t.a).suspendIn .settle) := by
  simp [exec, execSta, hp, hrem, endAbsolute]

/-- STA's last cycle-step, as one update (R76). -/
theorem store_suspendIn_eq (t : State) (addr : Addr) (v : Byte) :
    (t.advancePc.store addr v).suspendIn .settle =
      { t with pc := t.pc + 1#16, phase := .settle, mem := t.mem.writeByte addr.toNat v } := rfl

theorem exec_sei_decode (hp : t.phase = .decode) : exec .sei t = .next ((t.setI true).suspendIn .settle) := by
  simp [exec, execSei, hp]

theorem exec_cld_decode (hp : t.phase = .decode) : exec .cld t = .next ((t.setD false).suspendIn .settle) := by
  simp [exec, execCld, hp]

theorem exec_sei_operand (hp : t.phase = .operand) : exec .sei t = .refused .noSuspensionPoint := by
  simp [exec, execSei, hp]

theorem exec_cld_operand (hp : t.phase = .operand) : exec .cld t = .refused .noSuspensionPoint := by
  simp [exec, execCld, hp]

/-- Everything LDA, SEI and CLD can have done in a cycle-step that answers a next state. -/
theorem exec_cases_of_ne_sta {i : Instr} (hi : ∀ addr : Addr, i ≠ .sta addr) (h : exec i t = .next u) :
    u = t.fetchOpcode ∨
    (t.phase = .decode ∧ ∃ imm : Byte, i = .lda imm ∧ u = t.beginFetch imm 0) ∨
    (t.phase = .operand ∧ ∃ imm : Byte, i = .lda imm ∧ u = (loadA imm t.advancePc).fetchOpcode) ∨
    (t.phase = .decode ∧ i = .sei ∧ u = (t.setI true).suspendIn .settle) ∨
    (t.phase = .decode ∧ i = .cld ∧ u = (t.setD false).suspendIn .settle) := by
  cases hp : t.phase with
  | fetch => rw [exec_fetch (.inl hp)] at h; cases h; simp
  | settle => rw [exec_fetch (.inr hp)] at h; cases h; simp
  | halted => rw [exec_halted hp] at h; cases h
  | decode =>
    cases i with
    | lda imm => rw [exec_lda_decode hp] at h; cases h; simp
    | sta addr => exact absurd rfl (hi addr)
    | sei => rw [exec_sei_decode hp] at h; cases h; simp
    | cld => rw [exec_cld_decode hp] at h; cases h; simp
  | operand =>
    cases i with
    | lda imm => rw [exec_lda_operand hp] at h; cases h; simp
    | sta addr => exact absurd rfl (hi addr)
    | sei => rw [exec_sei_operand hp] at h; cases h
    | cld => rw [exec_cld_operand hp] at h; cases h

/-- Everything STA can have done in a cycle-step that answers a next state. -/
theorem exec_sta_cases {addr : Addr} (h : exec (.sta addr) t = .next u) :
    ((t.phase = .fetch ∨ t.phase = .settle) ∧ u = t.fetchOpcode) ∨
    (t.phase = .decode ∧ u = t.beginFetch (lowByte addr) 1) ∨
    (t.phase = .operand ∧ t.rem = 1 ∧ u = middleAbsolute addr t) ∨
    (t.phase = .operand ∧ t.rem ≠ 1 ∧ u = (t.advancePc.store addr t.a).suspendIn .settle) := by
  cases hp : t.phase with
  | fetch => rw [exec_fetch (.inl hp)] at h; cases h; simp
  | settle => rw [exec_fetch (.inr hp)] at h; cases h; simp
  | halted => rw [exec_halted hp] at h; cases h
  | decode => rw [exec_sta_decode hp] at h; cases h; simp
  | operand =>
    by_cases hrem : t.rem = 1
    · rw [exec_sta_high hp hrem] at h; cases h; simp [hrem]
    · rw [exec_sta_store hp hrem] at h; cases h; simp [hrem]

/-- STA writes no register, no flag and no fault record (R85). -/
theorem exec_sta_registers {addr : Addr} (h : exec (.sta addr) t = .next u) :
    u.a = t.a ∧ u.x = t.x ∧ u.y = t.y ∧ u.s = t.s ∧ u.z = t.z ∧ u.n = t.n ∧ u.d = t.d ∧ u.i = t.i ∧
    u.fault = t.fault := by
  rcases exec_sta_cases h with ⟨-, rfl⟩ | ⟨-, rfl⟩ | ⟨-, -, rfl⟩ | ⟨-, -, rfl⟩
  · simp [fetchOpcode_eq]
  · simp [beginFetch_eq]
  · simp [middleAbsolute_eq]
  · simp

/-- STA writes memory in its last cycle-step only, and there through the write protection (R86). -/
theorem exec_sta_mem {addr : Addr} (h : exec (.sta addr) t = .next u) :
    u.mem = if t.phase = .operand ∧ t.rem = 0 then t.mem.writeByte addr.toNat t.a else t.mem := by
  rcases exec_sta_cases h with ⟨hp | hp, rfl⟩ | ⟨hp, rfl⟩ | ⟨hp, hrem, rfl⟩ | ⟨hp, hrem, rfl⟩
  · rw [if_neg (by simp [hp])]; rfl
  · rw [if_neg (by simp [hp])]; rfl
  · rw [if_neg (by simp [hp])]; rfl
  · rw [if_neg (by simp [hrem])]; rfl
  · rw [if_pos ⟨hp, by omega⟩]; rfl

theorem lowByte_eq_ofNat (v : Addr) : lowByte v = BitVec.ofNat 8 (v.toNat % 256) := by
  simp [lowByte, ← BitVec.toNat_inj]

theorem highByte_eq_ofNat (v : Addr) : highByte v = BitVec.ofNat 8 (v.toNat / 256) := by
  simp [highByte, ← BitVec.toNat_inj, Nat.shiftRight_eq_div_pow]

end Sys2Proof.Machine

namespace Sys2Proof.Proofs

open Sys2Proof.Machine

/-- Settles O24, by the phase. -/
theorem ldaCompletes : Obligations.LdaCompletes := by
  intro imm s
  refine ⟨fun hp => exec_fetch hp _, fun hp => exec_lda_decode hp imm, fun hp => ?_⟩
  rw [exec_lda_operand hp, fetchOpcode_loadA_eq, isNegative_eq_decide_toNat]
  rfl

/-- Settles O25, by the phase and, in phase `OPERAND`, by whether a byte is still to come. -/
theorem staCompletes : Obligations.StaCompletes := by
  intro addr s
  rw [← lowByte_eq_ofNat, ← highByte_eq_ofNat]
  refine ⟨fun hp => exec_fetch hp _, fun hp => exec_sta_decode hp addr, fun hp hrem => ?_, fun hp hrem => ?_⟩
  · rw [exec_sta_high hp hrem, middleAbsolute_eq, ← hp]
  · exact exec_sta_store hp (by rw [hrem]; decide) addr

/-- Settles O26, by the phase. -/
theorem seiAndCldComplete : Obligations.SeiAndCldComplete :=
  fun _ => ⟨fun hp => ⟨exec_fetch hp _, exec_fetch hp _⟩, fun hp => ⟨exec_sei_decode hp, exec_cld_decode hp⟩,
    fun hp => ⟨exec_sei_operand hp, exec_cld_operand hp⟩⟩

/-- Settles O27: of the five things these instructions do, each writes only what its exception names. -/
theorem registerInstructionsFrame : Obligations.RegisterInstructionsFrame := by
  intro i s t hi h
  rcases exec_cases_of_ne_sta hi h with rfl | ⟨-, _, rfl, rfl⟩ | ⟨hp, _, rfl, rfl⟩ | ⟨hp, rfl, rfl⟩ | ⟨hp, rfl, rfl⟩
  · simp [State.fetchOpcode]
  · simp [State.beginFetch]
  · simp [fetchOpcode_loadA_eq, hp, Instr.op]
  · simp [hp]
  · simp [hp]

/-- Settles O28: STA writes memory only, in its last cycle-step, and there one byte below `0x8000`. -/
theorem staFrame : Obligations.StaFrame := by
  intro addr s t hwf h
  obtain ⟨ha, hx, hy, hs, hz, hn, hd, hi, hf⟩ := exec_sta_registers h
  have hmem := exec_sta_mem h
  refine ⟨ha, hx, hy, hs, hz, hn, hd, hi, hf, fun hstore => ?_, fun hno b => ?_⟩
  · rw [if_pos hstore] at hmem
    rw [hmem]
    refine ⟨fun b hb hne => ?_, ?_⟩
    · rw [readByte_writeByte hwf _ _ hb, if_neg fun hc => hne hc.1]
    · simp [readByte_writeByte hwf _ _ addr.isLt, Config.roBase]
  · rw [hmem, if_neg hno]

/-- Settles O7: the write law as a read sees it, and the storing cycle-step on both sides of `0x8000`. -/
theorem programWriteObeysProtection : Obligations.ProgramWriteObeysProtection := by
  refine ⟨fun m a b v hm hb => readByte_writeByte hm a v hb, fun m a v ha => writeByte_protected m v ha,
    fun s addr hp hrem ha => ?_, fun s addr hp hrem ha => ?_⟩
  · rw [exec_sta_store hp (by rw [hrem]; decide), store_suspendIn_eq, writeByte_protected s.mem s.a ha]
  · rw [exec_sta_store hp (by rw [hrem]; decide), store_suspendIn_eq, writeByte_unprotected s.mem s.a ha]

end Sys2Proof.Proofs
end

section
/-! SUPPORT. The invariant: which part of each cycle-step's result keeps the shapes of R30 and the latches of R19, and that
the failing cycle-step keeps them too. Memory's part stands with the unbacked region above. -/

namespace Sys2Proof.Machine

variable {t u : State}

/-- Only a halted executor has a fault record (R30). -/
theorem fault_of_shaped (hs : t.shaped = true) (hp : t.phase ≠ .halted) : t.fault = none := by
  unfold State.shaped at hs
  split at hs <;> simp_all

/-- A halted executor has no next state. -/
theorem phase_ne_halted_of_step (h : step t = .next u) : t.phase ≠ .halted := by
  intro hp
  rw [step_halted hp] at h
  cases h

/-- A completing cycle-step writes no fault record. -/
theorem step_fault_eq (h : step t = .next u) : u.fault = t.fault := by
  rcases step_cases h with ⟨-, rfl⟩ | ⟨-, -, rfl⟩ | ⟨-, -, rfl⟩ | ⟨-, -, rfl⟩ | ⟨-, -, rfl⟩ | ⟨-, -, rfl⟩ |
    ⟨-, -, -, rfl⟩ | ⟨-, -, -, rfl⟩ <;> rfl

/-- A completing cycle-step comes to rest in `DECODE`, `OPERAND` or `SETTLE` (R29). -/
theorem step_phase (h : step t = .next u) : u.phase = .decode ∨ u.phase = .operand ∨ u.phase = .settle := by
  rcases step_cases h with ⟨-, rfl⟩ | ⟨-, -, rfl⟩ | ⟨-, -, rfl⟩ | ⟨-, -, rfl⟩ | ⟨-, -, rfl⟩ | ⟨-, -, rfl⟩ |
    ⟨-, -, -, rfl⟩ | ⟨-, -, -, rfl⟩ <;> simp [State.beginFetch, State.fetchOpcode]

/-- A completing cycle-step keeps the shapes of R30. -/
theorem step_shaped (hs : t.shaped = true) (h : step t = .next u) : u.shaped = true := by
  have hf : t.fault = none := fault_of_shaped hs (phase_ne_halted_of_step h)
  rcases step_cases h with ⟨-, rfl⟩ | ⟨-, hir, rfl⟩ | ⟨-, hir, rfl⟩ | ⟨-, hir, rfl⟩ | ⟨-, hir, rfl⟩ | ⟨-, -, rfl⟩ |
    ⟨-, hir, -, rfl⟩ | ⟨-, hir, -, rfl⟩
  · simp [State.shaped, fetchOpcode_eq, hf]
  · simp [State.shaped, beginFetch_eq, hf, hir]
  · simp [State.shaped, beginFetch_eq, hf, hir]
  · simp [State.shaped, hf, hir]
  · simp [State.shaped, hf, hir]
  · simp [State.shaped, fetchOpcode_loadA_eq, hf]
  · simp [State.shaped, State.beginFetch, hf, hir]
  · simp [State.shaped, hf, hir]

/-- A completing cycle-step keeps the live latches equal to the bytes they were read from (R19). -/
theorem step_latchesFresh (hs : t.latchesFresh = true) (h : step t = .next u) : u.latchesFresh = true := by
  rcases step_cases h with ⟨-, rfl⟩ | ⟨hp, hir, rfl⟩ | ⟨hp, hir, rfl⟩ | ⟨-, -, rfl⟩ | ⟨-, -, rfl⟩ | ⟨-, -, rfl⟩ |
    ⟨hp, hir, hrem, rfl⟩ | ⟨-, -, -, rfl⟩
  · exact beq_iff_eq.mpr (fetchOpcode_ir t)
  · simpa [State.latchesFresh, beginFetch_eq, hp, hir, State.load] using hs
  · simpa [State.latchesFresh, beginFetch_eq, hp, hir, State.load] using hs
  · rfl
  · rfl
  · exact beq_iff_eq.mpr (fetchOpcode_ir (loadA t.dl t.advancePc))
  · have hpc : t.pc + 1#16 - 2#16 = t.pc - 1#16 := by bv_omega
    simpa [State.latchesFresh, State.beginFetch, hp, hir, hrem, State.load, hpc] using hs
  · rfl

/-- A completing cycle-step keeps the invariant. -/
theorem step_inv (ht : t.Inv) (h : step t = .next u) : u.Inv := by
  obtain ⟨hshape, hfresh, hwf, hblank⟩ := ht
  obtain ⟨hwf', hblank'⟩ : u.MemInv := step_memInv ⟨hwf, hblank⟩ h
  exact ⟨step_shaped hshape h, step_latchesFresh hfresh h, hwf', hblank'⟩

/-- The failing cycle-step keeps the invariant: the record is of the opcode in `IR`, and the latches and memory are as they
were (R102, R103). -/
theorem halt_inv (ht : t.Inv) (hp : t.phase = .decode) (hop : dispatchTable t.ir = none) : t.halt.Inv := by
  obtain ⟨-, hfresh, hwf, hblank⟩ := ht
  refine ⟨?_, ?_, hwf, hblank⟩
  · simpa [State.shaped, halt_eq, and_assoc] using dispatchTable_none.mp hop
  · simpa [State.latchesFresh, halt_eq, hp, State.load] using hfresh

/-- In phase `OPERAND` a good state has an opcode with an operand in `IR` (R30). -/
theorem operand_ir_of_shaped (hs : t.shaped = true) (hp : t.phase = .operand) : t.ir = 0xA9#8 ∨ t.ir = 0x8D#8 := by
  simp only [State.shaped, hp, Bool.and_eq_true, Bool.or_eq_true, beq_iff_eq] at hs
  obtain ⟨-, (⟨hir, -⟩ | ⟨hir, -⟩) | ⟨hir, -⟩⟩ := hs
  exacts [.inl hir, .inr hir, .inr hir]

/-- The dispatch of a registered opcode answers a next state (R73). -/
theorem step_registered {op : Op} (hp : t.phase = .decode) (hop : dispatchTable t.ir = some op) :
    ∃ u : State, step t = .next u := by
  rw [step_decode hp, hop]
  cases op <;> exact ⟨_, rfl⟩

/-- The handlers of LDA and STA resume in phase `OPERAND` (R74 to R76). -/
theorem step_operand_resumes (hp : t.phase = .operand) (hir : t.ir = 0xA9#8 ∨ t.ir = 0x8D#8) :
    ∃ u : State, step t = .next u := by
  rcases hir with hir | hir
  · exact ⟨_, step_operand_lda hp hir⟩
  · by_cases hrem : t.rem = 1
    · exact ⟨_, step_operand_sta_high hp hir hrem⟩
    · exact ⟨_, step_operand_sta_store hp hir hrem⟩

/-- A doomed state is one whose next cycle-step dispatches an unregistered opcode (R129). -/
theorem doomed_iff : t.doomed = true ↔ t.phase = .decode ∧ dispatchTable t.ir = none := by
  simp [State.doomed]

end Sys2Proof.Machine

namespace Sys2Proof.Proofs

open Sys2Proof.Machine

/-- Settles O29: the completing cycle-steps keep each part of the invariant, and the failing one is the halt. -/
theorem everyStepKeepsTheInvariant : Obligations.EveryStepKeepsTheInvariant := by
  intro s hs
  refine ⟨fun t ht => ?_, fun opcode fetchedAt left h => ?_⟩
  · refine ⟨step_inv hs ht, ?_, ?_⟩ <;> rcases step_phase ht with hp | hp | hp <;> simp [hp]
  · obtain ⟨hp, hop, hf⟩ := step_fault_iff.mp h
    obtain ⟨-, -, rfl⟩ := Fault.unimplementedOpcode.inj hf
    exact ⟨halt_inv hs hp hop, rfl⟩

/-- Settles O30, by the phase: the shape gives phase `OPERAND` an opcode whose handler resumes. -/
theorem goodStatesAreSteppable : Obligations.GoodStatesAreSteppable := by
  intro s hs hrun
  refine ⟨fun hd => ?_, fun hd => ?_⟩
  · obtain ⟨hp, hop⟩ := doomed_iff.mp hd
    exact ⟨_, step_unregistered hp hop⟩
  · cases hp : s.phase with
    | fetch => exact ⟨_, step_fetch (.inl hp)⟩
    | settle => exact ⟨_, step_fetch (.inr hp)⟩
    | halted => exact absurd hp hrun
    | operand => exact step_operand_resumes hp (operand_ir_of_shaped hs.shape hp)
    | decode =>
      cases hop : dispatchTable s.ir with
      | none => exact absurd (doomed_iff.mpr ⟨hp, hop⟩) (by simp [hd])
      | some op => exact step_registered hp hop

/-- Settles O32: every cycle-step keeps memory canonical and the bytes of the protected region. -/
theorem protectedRegionIsImmutable : Obligations.ProtectedRegionIsImmutable := by
  intro k s t hwf h b hlo hhi
  have hb : Config.roBase ≤ b % Config.memSize := by simp only [Config.roBase, Config.memSize]; omega
  have hkeep : t.mem.wf = true ∧ t.mem.readByte b = s.mem.readByte b :=
    steps_keep (P := fun u => u.mem.wf = true ∧ u.mem.readByte b = s.mem.readByte b)
      (fun hu hstep => ⟨step_mem_wf hu.1 hstep, (step_readByte_protected hu.1 hstep hb).trans hu.2⟩) ⟨hwf, rfl⟩ h
  exact hkeep.2

end Sys2Proof.Proofs
end

section
/-! SUPPORT. What a completing cycle-step does to the registers, to `PC` and to memory, whatever the instruction: memory as
the access table of R78 has it. -/

namespace Sys2Proof.Machine

variable {t u : State}

/-- The access of the opcode fetch (R78). -/
theorem access_fetch (hp : t.phase = .fetch ∨ t.phase = .settle) : t.access = some (.read t.pc) := by
  rcases hp with hp | hp <;> simp only [State.access, hp]

/-- The access of a dispatch, by the opcode in `IR` (R78). -/
theorem access_decode (hp : t.phase = .decode) :
    t.access = if t.ir = 0xA9#8 ∨ t.ir = 0x8D#8 then some (.read t.pc) else none := by
  simp only [State.access, hp, dispatchTable_eq]
  split_ifs <;> simp_all

/-- The access of the cycle-step that ends LDA is its opcode fetch (R78). -/
theorem access_operand_lda (hp : t.phase = .operand) (hir : t.ir = 0xA9#8) : t.access = some (.read (t.pc + 1#16)) := by
  simp [State.access, hp, hir]

/-- The access of STA in phase `OPERAND`: the high address byte, or the store (R78). -/
theorem access_operand_sta (hp : t.phase = .operand) (hir : t.ir = 0x8D#8) :
    t.access = if t.rem = 1 then some (.read (t.pc + 1#16)) else some (.write (joinBytes t.oplo t.dl) t.a) := by
  simp [State.access, hp, hir]

/-- Memory after an access: a write goes through the write protection (R37), a read changes nothing (R44). -/
def Memory.afterAccess (m : Memory) : Option Access → Memory
  | some (.write b v) => m.writeByte b.toNat v
  | some (.read _)    => m
  | none              => m

theorem afterAccess_of_not_write (m : Memory) {x : Option Access} (h : ∀ (b : Addr) (v : Byte), x ≠ some (.write b v)) :
    m.afterAccess x = m := by
  cases x with
  | none => rfl
  | some x =>
    cases x with
    | read b => rfl
    | write b v => exact absurd rfl (h b v)

/-- Memory agrees with another on the byte an access reads, if it reads one. -/
def Memory.AgreesOn (m m' : Memory) (x : Option Access) : Prop :=
  ∀ b : Addr, x = some (.read b) → m.readByte b.toNat = m'.readByte b.toNat

/-- The executor over another memory. -/
def State.withMem (m : Memory) (t : State) : State := { t with mem := m }

/-- Over a memory that agrees on the byte its access reads, the executor reads the same. -/
theorem load_withMem {m : Memory} {b : Addr} (hm : m.AgreesOn t.mem t.access) (hacc : t.access = some (.read b)) :
    (t.withMem m).load b = t.load b :=
  hm b hacc

/-- A cycle-step depends on memory through the byte its access reads, and changes it by the write of its access (R78). -/
theorem step_withMem {m : Memory} (hm : m.AgreesOn t.mem t.access) (h : step t = .next u) :
    step (t.withMem m) = .next (u.withMem (m.afterAccess t.access)) := by
  rcases step_cases h with ⟨hp, rfl⟩ | ⟨hp, hir, rfl⟩ | ⟨hp, hir, rfl⟩ | ⟨hp, hir, rfl⟩ | ⟨hp, hir, rfl⟩ |
    ⟨hp, hir, rfl⟩ | ⟨hp, hir, hrem, rfl⟩ | ⟨hp, hir, hrem, rfl⟩
  · have hacc := access_fetch hp
    rw [fetchOpcode_eq, ← load_withMem hm hacc, hacc]
    exact step_fetch hp
  · have hacc : t.access = some (.read t.pc) := by simp [access_decode hp, hir]
    rw [← load_withMem hm hacc, hacc]
    exact step_decode_lda (t := t.withMem m) hp hir
  · have hacc : t.access = some (.read t.pc) := by simp [access_decode hp, hir]
    rw [← load_withMem hm hacc, hacc]
    exact step_decode_sta (t := t.withMem m) hp hir
  · have hacc : t.access = none := by simp [access_decode hp, hir]
    rw [hacc]
    exact step_decode_sei (t := t.withMem m) hp hir
  · have hacc : t.access = none := by simp [access_decode hp, hir]
    rw [hacc]
    exact step_decode_cld (t := t.withMem m) hp hir
  · have hacc := access_operand_lda hp hir
    rw [fetchOpcode_loadA_eq, ← load_withMem hm hacc, hacc]
    exact (step_operand_lda (t := t.withMem m) hp hir).trans (congrArg _ (fetchOpcode_loadA_eq _ _))
  · have hacc : t.access = some (.read (t.pc + 1#16)) := by rw [access_operand_sta hp hir, if_pos hrem]
    rw [← load_withMem hm hacc, hacc]
    exact step_operand_sta_high (t := t.withMem m) hp hir hrem
  · have hacc : t.access = some (.write (joinBytes t.oplo t.dl) t.a) := by
      rw [access_operand_sta hp hir, if_neg hrem]
    rw [hacc]
    exact step_operand_sta_store (t := t.withMem m) hp hir hrem

/-- A completing cycle-step changes memory by the write of its access, and not otherwise (R78). -/
theorem step_mem_eq_afterAccess (h : step t = .next u) : u.mem = t.mem.afterAccess t.access := by
  have hself : step t = .next (u.withMem (t.mem.afterAccess t.access)) := step_withMem (fun _ _ => rfl) h
  rw [h] at hself
  exact congrArg State.mem (Host.Outcome.next.inj hself)

/-- `X`, `Y` and `S` are never written (R15, R16). -/
theorem step_indexRegisters (h : step t = .next u) : u.x = t.x ∧ u.y = t.y ∧ u.s = t.s := by
  rcases step_cases h with ⟨-, rfl⟩ | ⟨-, -, rfl⟩ | ⟨-, -, rfl⟩ | ⟨-, -, rfl⟩ | ⟨-, -, rfl⟩ | ⟨-, -, rfl⟩ |
    ⟨-, -, -, rfl⟩ | ⟨-, -, -, rfl⟩ <;> simp [fetchOpcode_eq, beginFetch_eq, loadA_eq]

/-- `I` is only ever set, and `D` only ever cleared (R23). -/
theorem step_modeFlags (h : step t = .next u) : (t.i = true → u.i = true) ∧ (t.d = false → u.d = false) := by
  rcases step_cases h with ⟨-, rfl⟩ | ⟨-, -, rfl⟩ | ⟨-, -, rfl⟩ | ⟨-, -, rfl⟩ | ⟨-, -, rfl⟩ | ⟨-, -, rfl⟩ |
    ⟨-, -, -, rfl⟩ | ⟨-, -, -, rfl⟩
  exacts [⟨id, id⟩, ⟨id, id⟩, ⟨id, id⟩, ⟨fun _ => rfl, id⟩, ⟨id, fun _ => rfl⟩, ⟨id, id⟩, ⟨id, id⟩, ⟨id, id⟩]

/-- Outside LDA's effect `A`, `Z` and `N` are not written (R14, R22). -/
theorem step_accumulator (h : step t = .next u) (hno : ¬ (t.phase = .operand ∧ t.ir = 0xA9#8)) :
    u.a = t.a ∧ u.z = t.z ∧ u.n = t.n := by
  rcases step_cases h with ⟨-, rfl⟩ | ⟨-, -, rfl⟩ | ⟨-, -, rfl⟩ | ⟨-, -, rfl⟩ | ⟨-, -, rfl⟩ | ⟨hp, hir, -⟩ |
    ⟨-, -, -, rfl⟩ | ⟨-, -, -, rfl⟩
  exacts [⟨rfl, rfl, rfl⟩, ⟨rfl, rfl, rfl⟩, ⟨rfl, rfl, rfl⟩, ⟨rfl, rfl, rfl⟩, ⟨rfl, rfl, rfl⟩,
    absurd ⟨hp, hir⟩ hno, ⟨rfl, rfl, rfl⟩, ⟨rfl, rfl, rfl⟩]

end Sys2Proof.Machine

namespace Sys2Proof.Proofs

open Sys2Proof.Machine

/-- Settles O33: LDA's effect writes `A`, `Z` and `N` from `DL`, and no other cycle-step writes them. -/
theorem registersAndFlagsChangeOnlyAsGiven : Obligations.RegistersAndFlagsChangeOnlyAsGiven := by
  intro s t h
  obtain ⟨hx, hy, hs⟩ := step_indexRegisters h
  obtain ⟨hi, hd⟩ := step_modeFlags h
  refine ⟨hx, hy, hs, hi, hd, fun ⟨hp, hir⟩ => ?_, step_accumulator h⟩
  rw [step_operand_lda hp hir] at h
  cases h
  have hz : isZero s.dl = true ↔ s.dl = 0x00#8 := beq_iff_eq
  have hn : isNegative s.dl = true ↔ 0x80 ≤ s.dl.toNat := by rw [isNegative_eq_decide_toNat, decide_eq_true_iff]
  refine ⟨rfl, hz, hn, fun ⟨hzero, hneg⟩ => ?_⟩
  have hle := hn.mp hneg
  simp [hz.mp hzero] at hle

/-- Settles O34, by the phase and the opcode in `IR`. -/
theorem pcMovesOnlyForward : Obligations.PcMovesOnlyForward := by
  intro s t h
  rcases step_cases h with ⟨hp | hp, rfl⟩ | ⟨hp, -, rfl⟩ | ⟨hp, -, rfl⟩ | ⟨hp, -, rfl⟩ | ⟨hp, -, rfl⟩ | ⟨hp, hir, rfl⟩ |
    ⟨hp, hir, -, rfl⟩ | ⟨hp, hir, -, rfl⟩
  · simp [hp, fetchOpcode_eq]
  · simp [hp, fetchOpcode_eq]
  · simp [hp, beginFetch_eq]
  · simp [hp, beginFetch_eq]
  · simp [hp]
  · simp [hp]
  · simp [hp, hir, fetchOpcode_loadA_eq]
  · simp [hp, hir, beginFetch_eq]
  · simp [hp, hir]

/-- Settles O35: memory is that after the access, and a write obeys the protection. -/
theorem memoryChangesOnlyByTheAccess : Obligations.MemoryChangesOnlyByTheAccess := by
  intro s t hwf h
  have hmem := step_mem_eq_afterAccess h
  refine ⟨fun b v hacc c hc => ?_, fun hno => ?_⟩
  · have hwrite : (s.mem.writeByte b.toNat v).readByte c = if c = b.toNat ∧ b.toNat < 0x8000 then v else s.mem.readByte c :=
      readByte_writeByte hwf _ v hc
    rw [hmem, hacc, Memory.afterAccess, hwrite]
    exact if_congr (and_congr_right fun e => e ▸ Iff.rfl) rfl rfl
  · rw [hmem, afterAccess_of_not_write _ hno]

/-- Settles O36: the other memory after the same access; the failing cycle-step makes none. -/
theorem stepDependsOnTheByteItReads : Obligations.StepDependsOnTheByteItReads := by
  intro s m hm
  refine ⟨fun t h => ?_, fun opcode fetchedAt left h => ?_⟩
  · exact ⟨_, step_withMem hm h, afterAccess_of_not_write m, fun b v hacc => by rw [hacc]; rfl⟩
  · obtain ⟨hp, hop, hf⟩ := step_fault_iff.mp h
    obtain ⟨rfl, rfl, rfl⟩ := Fault.unimplementedOpcode.inj hf
    exact step_unregistered (t := s.withMem m) hp hop

end Sys2Proof.Proofs
end

section
/-! SUPPORT. The inert part of the state: `X`, `Y`, `S` and the four flags are read by no rule (R15, R16, R23), so that a run
with other values of them is the same run but for them. -/

namespace Sys2Proof.Machine

variable {t u : State}

/-- The state with other values of `X`, `Y`, `S` and the four flags. -/
def State.withInert (x y sp : Byte) (z n d i : Bool) (t : State) : State :=
  { t with x := x, y := y, s := sp, z := z, n := n, d := d, i := i }

/-- A run of one cycle-step or more that completes begins with one that completes. -/
theorem steps_succ_next_iff {k : Nat} : steps (k + 1) t = .next u ↔ ∃ v : State, step t = .next v ∧ steps k v = .next u := by
  rw [steps]
  cases step t <;> simp

/-- A run of one cycle-step or more that fails fails at once, or after a cycle-step that completes. -/
theorem steps_succ_fault_iff {k : Nat} {r : Fault} :
    steps (k + 1) t = .fault r ↔ step t = .fault r ∨ ∃ v : State, step t = .next v ∧ steps k v = .fault r := by
  rw [steps]
  cases step t <;> simp

/-- A completing cycle-step does the same under other inert values, keeping `X`, `Y` and `S`. -/
theorem step_withInert (x y sp : Byte) (z n d i : Bool) (h : step t = .next u) : ∃ z' n' d' i' : Bool,
    step (t.withInert x y sp z n d i) = .next (u.withInert x y sp z' n' d' i') := by
  rcases step_cases h with ⟨hp, rfl⟩ | ⟨hp, hir, rfl⟩ | ⟨hp, hir, rfl⟩ | ⟨hp, hir, rfl⟩ | ⟨hp, hir, rfl⟩ |
    ⟨hp, hir, rfl⟩ | ⟨hp, hir, hrem, rfl⟩ | ⟨hp, hir, hrem, rfl⟩
  · exact ⟨z, n, d, i, step_fetch hp⟩
  · exact ⟨z, n, d, i, step_decode_lda hp hir⟩
  · exact ⟨z, n, d, i, step_decode_sta hp hir⟩
  · exact ⟨z, n, d, true, step_decode_sei hp hir⟩
  · exact ⟨z, n, false, i, step_decode_cld hp hir⟩
  · exact ⟨isZero t.dl, isNegative t.dl, d, i, step_operand_lda hp hir⟩
  · exact ⟨z, n, d, i, step_operand_sta_high hp hir hrem⟩
  · exact ⟨z, n, d, i, step_operand_sta_store hp hir hrem⟩

/-- A failing cycle-step fails alike under other inert values. -/
theorem step_withInert_fault (x y sp : Byte) (z n d i : Bool) {opcode : Byte} {fetchedAt : Addr} {left : State}
    (h : step t = .fault (.unimplementedOpcode opcode fetchedAt left)) :
    step (t.withInert x y sp z n d i) = .fault (.unimplementedOpcode opcode fetchedAt (left.withInert x y sp z n d i)) := by
  obtain ⟨hp, hop, hf⟩ := step_fault_iff.mp h
  obtain ⟨rfl, rfl, rfl⟩ := Fault.unimplementedOpcode.inj hf
  exact step_unregistered (t := t.withInert x y sp z n d i) hp hop

/-- A completing run does the same under other inert values. -/
theorem steps_withInert (x y sp : Byte) : ∀ {k : Nat} {t : State} (z n d i : Bool), steps k t = .next u →
    ∃ z' n' d' i' : Bool, steps k (t.withInert x y sp z n d i) = .next (u.withInert x y sp z' n' d' i')
  | 0, _, z, n, d, i, h => by cases h; exact ⟨z, n, d, i, rfl⟩
  | k + 1, t, z, n, d, i, h => by
    obtain ⟨v, hv, hrest⟩ := steps_succ_next_iff.mp h
    obtain ⟨z₁, n₁, d₁, i₁, hv'⟩ := step_withInert x y sp z n d i hv
    obtain ⟨z', n', d', i', hrest'⟩ := steps_withInert x y sp z₁ n₁ d₁ i₁ hrest
    exact ⟨z', n', d', i', steps_succ_next_iff.mpr ⟨_, hv', hrest'⟩⟩

/-- A failing run fails alike under other inert values. -/
theorem steps_withInert_fault (x y sp : Byte) {opcode : Byte} {fetchedAt : Addr} {left : State} :
    ∀ {k : Nat} {t : State} (z n d i : Bool), steps k t = .fault (.unimplementedOpcode opcode fetchedAt left) →
    ∃ z' n' d' i' : Bool, steps k (t.withInert x y sp z n d i) =
      .fault (.unimplementedOpcode opcode fetchedAt (left.withInert x y sp z' n' d' i'))
  | 0, _, _, _, _, _, h => by cases h
  | k + 1, t, z, n, d, i, h => by
    rcases steps_succ_fault_iff.mp h with hfail | ⟨v, hv, hrest⟩
    · exact ⟨z, n, d, i, steps_succ_fault_iff.mpr (.inl (step_withInert_fault x y sp z n d i hfail))⟩
    · obtain ⟨z₁, n₁, d₁, i₁, hv'⟩ := step_withInert x y sp z n d i hv
      obtain ⟨z', n', d', i', hrest'⟩ := steps_withInert_fault x y sp z₁ n₁ d₁ i₁ hrest
      exact ⟨z', n', d', i', steps_succ_fault_iff.mpr (.inr ⟨_, hv', hrest'⟩)⟩

end Sys2Proof.Machine

namespace Sys2Proof.Proofs

open Sys2Proof.Machine

/-- Settles O37, by induction on the run: each cycle-step does the same under other inert values. -/
theorem inertRegistersAndFlagsInfluenceNothing : Obligations.InertRegistersAndFlagsInfluenceNothing := by
  intro k s x y sp z n d i
  refine ⟨fun t h => steps_withInert x y sp z n d i h, fun opcode fetchedAt left h => ?_⟩
  obtain ⟨z', n', d', i', h'⟩ := steps_withInert_fault x y sp z n d i h
  exact ⟨left.withInert x y sp z' n' d' i', h', rfl, rfl⟩

end Sys2Proof.Proofs
end

section
/-! SUPPORT. The instructions as wholes (R83, R85, R88, R90): from any instruction boundary to the dispatch of the next
opcode, and from there, instruction by instruction, to the boundary that follows. -/

namespace Sys2Proof

/-- The cycle-steps from the dispatch of an instruction to the boundary that follows it (R82): that of LDA lies after the
opcode fetch its effect is fused with (R84). -/
def Op.stepsFromDecode : Op → Nat
  | .lda => 2
  | .sta => 3
  | .sei => 1
  | .cld => 1

namespace Machine

variable {t u : State}

/-- Runs compose. -/
theorem steps_add : ∀ {j : Nat} {t : State}, steps j t = .next u → ∀ k : Nat, steps (j + k) t = steps k u
  | 0, _, h, k => by cases h; rw [Nat.zero_add]
  | j + 1, t, h, k => by
    obtain ⟨v, hv, hrest⟩ := steps_succ_next_iff.mp h
    rw [Nat.add_right_comm, steps_succ_of_next hv, steps_add hrest]

/-- After an opcode fetch the executor rests at the boundary before the instruction whose opcode it fetched (R19, R82). -/
theorem fetchOpcode_atBoundary (t : State) : t.fetchOpcode.atBoundary = true :=
  beq_iff_eq.mpr (fetchOpcode_ir t)

/-- Outside phase `DECODE` an opcode fetch changes nothing that a program can see. -/
theorem fetchOpcode_arch (hp : t.phase ≠ .decode) : t.fetchOpcode.arch = t.arch := by
  simp [State.arch, fetchOpcode_eq, hp]

/-- A boundary in phase `DECODE`: the opcode in `IR` is the byte it was fetched from. -/
theorem atBoundary_decode_iff (hp : t.phase = .decode) : t.atBoundary = true ↔ t.ir = t.load (t.pc - 1#16) := by
  simp [State.atBoundary, hp]

/-- From any boundary the run comes to the dispatch of the next opcode, with nothing that a program can see changed: at
once in phase `DECODE`, and after the opcode fetch in phases `FETCH` and `SETTLE`. -/
theorem boundary_reaches_decode (hb : t.atBoundary = true) : ∃ v : State, v.phase = .decode ∧ v.atBoundary = true ∧
    v.arch = t.arch ∧ ∀ k : Nat, steps (if t.phase = .decode then k else k + 1) t = steps k v := by
  cases hp : t.phase with
  | fetch =>
    exact ⟨t.fetchOpcode, rfl, fetchOpcode_atBoundary t, fetchOpcode_arch (by simp [hp]),
      steps_succ_of_next (step_fetch (.inl hp))⟩
  | settle =>
    exact ⟨t.fetchOpcode, rfl, fetchOpcode_atBoundary t, fetchOpcode_arch (by simp [hp]),
      steps_succ_of_next (step_fetch (.inr hp))⟩
  | decode => exact ⟨t, hp, hb, rfl, fun _ => rfl⟩
  | operand => simp [State.atBoundary, hp] at hb
  | halted => simp [State.atBoundary, hp] at hb

/-- The bytes at the program counter, read from the executor's own memory. -/
theorem arch_bytes_eq (t : State) : t.arch.bytes = [t.mem.readByte t.arch.pc.toNat,
    t.mem.readByte (t.arch.pc + 1#16).toNat, t.mem.readByte (t.arch.pc + 2#16).toNat] := rfl

/-- At a boundary in phase `DECODE` the bytes at the program counter are those of the instruction in flight (R53). -/
theorem arch_bytes_eq_inFlight (hp : t.phase = .decode) (hb : t.atBoundary = true) : t.arch.bytes = t.inFlight := by
  have hnext : t.pc - 1#16 + 2#16 = t.pc + 1#16 := by bv_omega
  rw [inFlight_decode hp, (atBoundary_decode_iff hp).mp hb]
  simp [Arch.bytes, State.arch, hp, State.load, hnext]

/-- LDA from its dispatch: the operand read, then the effect fused with the next opcode fetch (R84). -/
theorem steps_lda_from_decode (hp : t.phase = .decode) (hir : t.ir = 0xA9#8) :
    steps 2 t = .next (loadA (t.load t.pc) (t.beginFetch (t.load t.pc) 0).advancePc).fetchOpcode := by
  rw [steps_succ_of_next (step_decode_lda hp hir)]
  exact steps_succ_of_next (step_operand_lda (t := t.beginFetch (t.load t.pc) 0) rfl hir) 0

/-- STA from the delivery of its low address byte: the high byte, then the store (R86). -/
theorem steps_sta_from_operand (hp : t.phase = .operand) (hir : t.ir = 0x8D#8) (hrem : t.rem = 1) :
    steps 2 t = .next { t with
      pc := t.pc + 1#16 + 1#16, phase := .settle, oplo := t.dl, dl := t.load (t.pc + 1#16), rem := 0
      mem := t.mem.writeByte (joinBytes t.dl (t.load (t.pc + 1#16))).toNat t.a } := by
  have hstore := step_operand_sta_store
    (t := (t.advancePc.deliverLow t.dl).beginFetch (t.load (t.pc + 1#16)) 0) rfl hir nofun
  rw [steps_succ_of_next (step_operand_sta_high hp hir hrem), steps_succ_of_next hstore]
  simp [steps, beginFetch_eq, State.advancePc, State.deliverLow, State.store, State.suspendIn]

/-- STA from its dispatch: the low address byte before these (R86). -/
theorem steps_sta_from_decode (hp : t.phase = .decode) (hir : t.ir = 0x8D#8) :
    steps 3 t = .next { t with
      pc := t.pc + 1#16 + 1#16, phase := .settle, oplo := t.load t.pc, dl := t.load (t.pc + 1#16), rem := 0
      mem := t.mem.writeByte (joinBytes (t.load t.pc) (t.load (t.pc + 1#16))).toNat t.a } := by
  rw [steps_succ_of_next (step_decode_sta hp hir)]
  exact steps_sta_from_operand (t := t.beginFetch (t.load t.pc) 1) rfl hir rfl

/-- LDA as a whole from its dispatch (R83). -/
theorem whole_lda_from_decode (hp : t.phase = .decode) (hir : t.ir = 0xA9#8) : ∃ u : State,
    steps 2 t = .next u ∧ u.atBoundary = true ∧ u.arch = wholeLda (t.load t.pc) t.arch := by
  have hpc : t.pc + 1#16 = t.pc - 1#16 + 2#16 := by bv_omega
  refine ⟨_, steps_lda_from_decode hp hir, fetchOpcode_atBoundary _, ?_⟩
  rw [fetchOpcode_arch (by simp [loadA_eq, State.beginFetch])]
  simp [State.arch, loadA_eq, beginFetch_eq, wholeLda, hp, hpc]

/-- STA as a whole from its dispatch (R85). -/
theorem whole_sta_from_decode (hp : t.phase = .decode) (hir : t.ir = 0x8D#8) : ∃ u : State,
    steps 3 t = .next u ∧ u.atBoundary = true ∧
    u.arch = wholeSta (joinBytes (t.load t.pc) (t.load (t.pc + 1#16))) t.arch := by
  have hpc : t.pc + 1#16 + 1#16 = t.pc - 1#16 + 3#16 := by bv_omega
  exact ⟨_, steps_sta_from_decode hp hir, rfl, by simp [State.arch, wholeSta, hp, hpc]⟩

/-- SEI from its dispatch (R88). -/
theorem whole_sei_from_decode (hp : t.phase = .decode) (hir : t.ir = 0x78#8) : ∃ u : State,
    steps 1 t = .next u ∧ u.atBoundary = true ∧ u.arch = wholeSei t.arch :=
  ⟨_, steps_succ_of_next (step_decode_sei hp hir) 0, rfl, by simp [State.arch, wholeSei, hp]⟩

/-- CLD from its dispatch (R90). -/
theorem whole_cld_from_decode (hp : t.phase = .decode) (hir : t.ir = 0xD8#8) : ∃ u : State,
    steps 1 t = .next u ∧ u.atBoundary = true ∧ u.arch = wholeCld t.arch :=
  ⟨_, steps_succ_of_next (step_decode_cld hp hir) 0, rfl, by simp [State.arch, wholeCld, hp]⟩

/-- From its dispatch an instruction runs as a whole to the boundary that follows. -/
theorem whole_from_decode {i : Instr} {rest : List Byte} (hp : t.phase = .decode)
    (hd : decode t.inFlight = .ok (i, rest)) : ∃ u : State,
    steps i.op.stepsFromDecode t = .next u ∧ u.atBoundary = true ∧ u.arch = whole i t.arch := by
  rw [decode_inFlight_decode hp] at hd
  cases hop : dispatchTable t.ir with
  | none => rw [hop] at hd; cases hd
  | some op =>
    have hir : t.ir = op.row.pattern := (pattern_of_dispatchTable hop).symm
    rw [hop] at hd
    cases op with
    | lda => cases hd; exact whole_lda_from_decode hp hir
    | sta => cases hd; exact whole_sta_from_decode hp hir
    | sei => cases hd; exact whole_sei_from_decode hp hir
    | cld => cases hd; exact whole_cld_from_decode hp hir

/-- From any boundary the next instruction runs as a whole to the boundary that follows. -/
theorem whole_from_boundary {i : Instr} {rest : List Byte} (hb : t.atBoundary = true)
    (hd : decode t.arch.bytes = .ok (i, rest)) : ∃ u : State,
    steps (if t.phase = .decode then i.op.stepsFromDecode else i.op.stepsFromDecode + 1) t = .next u ∧
    u.atBoundary = true ∧ u.arch = whole i t.arch := by
  obtain ⟨v, hvp, hvb, hva, hsteps⟩ := boundary_reaches_decode hb
  rw [hsteps, ← hva]
  rw [← hva, arch_bytes_eq_inFlight hvp hvb] at hd
  exact whole_from_decode hvp hd

/-- From any boundary before an unregistered opcode the run fails, with the record of that opcode (R101, R102). -/
theorem fault_from_boundary {e : DecodeError} (hb : t.atBoundary = true) (hd : decode t.arch.bytes = .error e) :
    ∃ left : State, left.fault = some ⟨t.mem.readByte t.arch.pc.toNat, t.arch.pc⟩ ∧
    steps (if t.phase = .decode then 1 else 1 + 1) t =
      .fault (.unimplementedOpcode (t.mem.readByte t.arch.pc.toNat) t.arch.pc left) := by
  obtain ⟨v, hvp, hvb, hva, hsteps⟩ := boundary_reaches_decode hb
  have hmem : v.mem = t.mem := congrArg Arch.mem hva
  have hpc : v.pc - 1#16 = t.arch.pc := by rw [← hva, State.arch, if_pos hvp]
  have hir : v.ir = t.mem.readByte t.arch.pc.toNat := by
    rw [(atBoundary_decode_iff hvp).mp hvb, State.load, hmem, hpc]
  have hop : dispatchTable v.ir = none := by
    rw [← hva, arch_bytes_eq_inFlight hvp hvb, decode_inFlight_decode hvp] at hd
    cases hop : dispatchTable v.ir with
    | none => rfl
    | some op => rw [hop] at hd; cases op <;> cases hd
  rw [← hir, ← hpc]
  exact ⟨v.halt, rfl, (hsteps 1).trans (steps_succ_fault_iff.mpr (.inl (step_unregistered hvp hop)))⟩

/-- One instruction as a whole, when it is one. -/
theorem wholeStep_ok_iff {p q : Arch} :
    wholeStep p = .ok q ↔ ∃ (i : Instr) (rest : List Byte), decode p.bytes = .ok (i, rest) ∧ whole i p = q := by
  rw [wholeStep]
  cases decode p.bytes with
  | error e => simp
  | ok r => simp [Prod.ext_iff]

/-- One instruction as a whole, when its opcode is unregistered. -/
theorem wholeStep_error_iff {p : Arch} {r : FaultRecord} :
    wholeStep p = .error r ↔
      ∃ e : DecodeError, decode p.bytes = .error e ∧ ⟨p.mem.readByte p.pc.toNat, p.pc⟩ = r := by
  rw [wholeStep]
  cases decode p.bytes <;> simp

/-- One instruction as a whole takes at most four cycle-steps. -/
theorem wholeStep_from_boundary {p : Arch} (hb : t.atBoundary = true) (h : wholeStep t.arch = .ok p) :
    ∃ (c : Nat) (u : State), c ≤ 4 ∧ steps c t = .next u ∧ u.atBoundary = true ∧ u.arch = p := by
  obtain ⟨i, rest, hd, rfl⟩ := wholeStep_ok_iff.mp h
  obtain ⟨u, hu, hub, hua⟩ := whole_from_boundary hb hd
  refine ⟨_, u, ?_, hu, hub, hua⟩
  have hop : i.op.stepsFromDecode ≤ 3 := by cases i.op <;> decide
  split_ifs <;> omega

/-- The failure of one instruction takes at most two cycle-steps. -/
theorem wholeStep_fault_from_boundary {r : FaultRecord} (hb : t.atBoundary = true) (h : wholeStep t.arch = .error r) :
    ∃ (c : Nat) (left : State), c ≤ 2 ∧ steps c t = .fault (.unimplementedOpcode r.opcode r.fetchedAt left) ∧
      left.fault = some r := by
  obtain ⟨e, hd, rfl⟩ := wholeStep_error_iff.mp h
  obtain ⟨left, hleft, hfail⟩ := fault_from_boundary hb hd
  refine ⟨_, left, ?_, hfail, hleft⟩
  split_ifs <;> omega

/-- The first of `k + 1` instructions as wholes completes, or it fails. -/
theorem wholeSteps_succ (k : Nat) (p : Arch) :
    (∃ q : Arch, wholeStep p = .ok q ∧ wholeSteps (k + 1) p = wholeSteps k q) ∨
    (∃ r : FaultRecord, wholeStep p = .error r ∧ wholeSteps (k + 1) p = .error r) := by
  rw [wholeSteps]
  cases wholeStep p with
  | ok q => exact .inl ⟨q, rfl, rfl⟩
  | error r => exact .inr ⟨r, rfl, rfl⟩

end Machine

end Sys2Proof

namespace Sys2Proof.Proofs

open Sys2Proof.Machine

/-- Settles O44, by induction on the instructions: the first one's cycle-steps come to a boundary, or fail. -/
theorem cycleStepsRefineWholeInstructions : Obligations.CycleStepsRefineWholeInstructions := by
  intro k
  induction k with
  | zero =>
    refine fun s hb => ⟨fun p h => ?_, fun r h => ?_⟩
    · cases h; exact ⟨0, s, Nat.zero_le _, rfl, hb, rfl⟩
    · cases h
  | succ k ih =>
    intro s hb
    rcases wholeSteps_succ k s.arch with ⟨q, hq, hrest⟩ | ⟨r, hr, hrest⟩
    · obtain ⟨c, v, hc, hv, hvb, rfl⟩ := wholeStep_from_boundary hb hq
      obtain ⟨ihok, iherr⟩ := ih v hvb
      rw [hrest]
      refine ⟨fun p h => ?_, fun r h => ?_⟩
      · obtain ⟨c', u, hc', hu, hub, hua⟩ := ihok p h
        exact ⟨c + c', u, by omega, (steps_add hv c').trans hu, hub, hua⟩
      · obtain ⟨c', left, hc', hfail, hleft⟩ := iherr r h
        exact ⟨c + c', left, by omega, (steps_add hv c').trans hfail, hleft⟩
    · rw [hrest]
      refine ⟨nofun, fun r' h => ?_⟩
      cases h
      obtain ⟨c, left, hc, hfail, hleft⟩ := wholeStep_fault_from_boundary hb hr
      exact ⟨c, left, by omega, hfail, hleft⟩

/-- Settles O39: the bytes at the boundary decode to the LDA. -/
theorem ldaAsAWhole : Obligations.LdaAsAWhole := by
  intro s v hb hopcode hv
  have hd : decode s.arch.bytes = .ok (.lda v, [s.mem.readByte (s.arch.pc + 2#16).toNat]) := by
    rw [arch_bytes_eq, decode_cons, hopcode, hv]; rfl
  obtain ⟨u, hu, hub, hua⟩ := whole_from_boundary hb hd
  exact ⟨_, u, hu, hub, by rw [hua, ← isNegative_eq_getLsbD]; rfl⟩

/-- Settles O41: the bytes at the boundary decode to the STA. -/
theorem staAsAWhole : Obligations.StaAsAWhole := by
  intro s hb hopcode
  have hd : decode s.arch.bytes = .ok (.sta (joinBytes (s.mem.readByte (s.arch.pc + 1#16).toNat)
      (s.mem.readByte (s.arch.pc + 2#16).toNat)), []) := by
    rw [arch_bytes_eq, decode_cons, hopcode]; rfl
  obtain ⟨u, hu, hub, hua⟩ := whole_from_boundary hb hd
  exact ⟨u, hu, hub, by rw [hua, ← joinBytes_toNat]; rfl⟩

/-- Settles O42: the bytes at the boundary decode to the SEI, or to the CLD. -/
theorem seiAndCldAsWholes : Obligations.SeiAndCldAsWholes := by
  intro s hb
  refine ⟨fun hopcode => ?_, fun hopcode => ?_⟩
  · have hd : decode s.arch.bytes = .ok (.sei, s.arch.bytes.tail) := by
      rw [arch_bytes_eq, decode_cons, hopcode]; rfl
    exact whole_from_boundary hb hd
  · have hd : decode s.arch.bytes = .ok (.cld, s.arch.bytes.tail) := by
      rw [arch_bytes_eq, decode_cons, hopcode]; rfl
    exact whole_from_boundary hb hd

/-- Settles O40: the operand read, then the effect fused with the next opcode fetch. -/
theorem ldaEffectLandsInTheThirdCycle : Obligations.LdaEffectLandsInTheThirdCycle := by
  intro _ t _ hp hir
  refine ⟨⟨_, step_decode_lda hp hir, rfl, rfl, rfl, rfl, rfl, rfl⟩, _, steps_lda_from_decode hp hir, ?_⟩
  exact ⟨rfl, by simp [fetchOpcode_loadA_eq, beginFetch_eq], rfl, rfl, isNegative_eq_getLsbD _, rfl⟩

/-- Settles O38: the store, then the opcode fetch that reads the stored byte. -/
theorem storeIsSeenByTheNextFetch : Obligations.StoreIsSeenByTheNextFetch := by
  intro s hwf hp hir hrem htarget hlow
  have hstore := step_operand_sta_store hp hir (by rw [hrem]; decide)
  refine ⟨_, (steps_succ_of_next hstore 1).trans (steps_succ_of_next (step_fetch (.inr rfl)) 0), rfl, ?_, ?_⟩
  · have hread := readByte_writeByte hwf (s.pc + 1#16).toNat s.a (s.pc + 1#16).isLt
    rw [if_pos ⟨rfl, hlow⟩] at hread
    rw [htarget]
    exact hread
  · simp [fetchOpcode_eq, BitVec.add_assoc]

end Sys2Proof.Proofs
end

section
/-! SUPPORT. The Clock (45_clock.md): a tick of executors that all have a next state, one executor that fails among them, and
ticks in a row. -/

namespace Sys2Proof.Machine

variable {s t : State}

/-- Each executor answers the next state in its place. -/
abbrev AllStepTo : List State → List State → Prop := List.Forall₂ fun u v => step u = .next v

/-- An executor that answers a next state may be stepped. -/
theorem steppable_of_next (h : step s = .next t) : s.steppable = true := by
  rw [State.steppable, h]

/-- An executor that fails may be stepped. -/
theorem steppable_of_fault {r : Fault} (h : step s = .fault r) : s.steppable = true := by
  rw [State.steppable, h]

/-- An executor that is refused may not be stepped. -/
theorem steppable_of_refused {r : Refusal} (h : step s = .refused r) : s.steppable = false := by
  rw [State.steppable, h]

theorem all_steppable {l l' : List State} (h : AllStepTo l l') : l.all State.steppable = true := by
  induction h with
  | nil => rfl
  | cons hs _ ih => rw [List.all_cons, steppable_of_next hs, ih]; rfl

/-- A tick's loop steps the executors that answer next states, and goes on with those after them. -/
theorem tickFrom_append {l l' : List State} (h : AllStepTo l l') (k : Nat) (rest : List State) :
    tickFrom k (l ++ rest) = (l' ++ (tickFrom (k + l.length) rest).1, (tickFrom (k + l.length) rest).2) := by
  induction h generalizing k with
  | nil => rfl
  | @cons u v l l' hs _ ih =>
    have hk : k + (u :: l).length = k + 1 + l.length := by rw [List.length_cons]; omega
    rw [List.cons_append, tickFrom, hs, hk, ih]
    rfl

/-- A tick's loop over executors that all answer next states reports no failure. -/
theorem tickFrom_allStepTo {l l' : List State} (h : AllStepTo l l') (k : Nat) : tickFrom k l = (l', []) := by
  simpa [tickFrom] using tickFrom_append h k []

/-- What a tick's loop does at an executor that fails: it is left halted and reported under its place, and those after it
are stepped or not as `FAIL_TICK_COMPLETES` says (R98). -/
theorem tickFrom_fault {left : State} {opcode : Byte} {fetchedAt : Addr} {rest rest' : List State}
    (hs : step s = .fault (.unimplementedOpcode opcode fetchedAt left)) (hrest : AllStepTo rest rest') (k : Nat) :
    tickFrom k (s :: rest) = (left :: (if Config.failTickCompletes then rest' else rest), [(k, ⟨opcode, fetchedAt⟩)]) := by
  rw [tickFrom, hs]
  cases Config.failTickCompletes with
  | true => simp [tickFrom_allStepTo hrest]
  | false => simp

/-- A tick steps executors that may all be stepped (R94). -/
theorem tick_of_steppable {l l' : List State} {failures : List (Nat × FaultRecord)} (h : l.all State.steppable = true)
    (hl : tickFrom 0 l = (l', failures)) : Clock.tick ⟨l⟩ = .ticked ⟨l'⟩ failures := by
  rw [Clock.tick, if_pos h, hl]

/-- A tick of executors that all answer next states (R94). -/
theorem tick_allStepTo {l l' : List State} (h : AllStepTo l l') : Clock.tick ⟨l⟩ = .ticked ⟨l'⟩ [] :=
  tick_of_steppable (all_steppable h) (tickFrom_allStepTo h 0)

/-- A tick with an executor that may not be stepped is refused (R99). -/
theorem tick_refused {c : Clock} (hs : s ∈ c.executors) (h : s.steppable = false) : c.tick = .refused := by
  have hall : ¬ c.executors.all State.steppable = true := fun hall => by
    simp [List.all_eq_true.mp hall s hs] at h
  rw [Clock.tick, if_neg hall]

/-- The first cycle-step of each of several runs. -/
theorem forall₂_steps_succ {k : Nat} {l l' : List State}
    (h : List.Forall₂ (fun u v => steps (k + 1) u = .next v) l l') :
    ∃ mid : List State, AllStepTo l mid ∧ List.Forall₂ (fun u v => steps k u = .next v) mid l' := by
  induction h with
  | nil => exact ⟨[], .nil, .nil⟩
  | cons hs _ ih =>
    obtain ⟨v, hv, hrest⟩ := steps_succ_next_iff.mp hs
    obtain ⟨mid, hmid, hmid'⟩ := ih
    exact ⟨v :: mid, .cons hv hmid, .cons hrest hmid'⟩

/-- Runs of no cycle-step end where they begin. -/
theorem forall₂_steps_zero {l l' : List State} (h : List.Forall₂ (fun u v => steps 0 u = .next v) l l') : l = l' := by
  induction h with
  | nil => rfl
  | cons hs _ ih => cases hs; rw [ih]

end Sys2Proof.Machine

namespace Sys2Proof.Proofs

open Sys2Proof.Machine

/-- Settles O46, by induction on the ticks: each gives every executor the first cycle-step of what is left of its run. -/
theorem ticksGiveEveryExecutorTheSameSteps : Obligations.TicksGiveEveryExecutorTheSameSteps := by
  intro k
  induction k with
  | zero => exact fun before after h => by rw [forall₂_steps_zero h]; rfl
  | succ k ih =>
    intro before after h
    obtain ⟨mid, hfirst, hrest⟩ := forall₂_steps_succ h
    rw [Clock.ticks, tick_allStepTo hfirst]
    exact ih mid after hrest

/-- Settles O47: the loop comes to the failing executor after stepping those before it. -/
theorem failingTickLeavesOtherExecutorsAlone : Obligations.FailingTickLeavesOtherExecutorsAlone := by
  intro before before' rest rest' s left opcode fetchedAt hbefore hrest hs
  have hall : (before ++ s :: rest).all State.steppable = true := by
    simp only [List.all_append, List.all_cons, all_steppable hbefore, steppable_of_fault hs, all_steppable hrest,
      Bool.and_self]
  refine tick_of_steppable hall ?_
  rw [tickFrom_append hbefore, tickFrom_fault hs hrest, Nat.zero_add]

/-- Settles O45, by what the step answers. -/
theorem tickOfOneExecutorIsOneStep : Obligations.TickOfOneExecutorIsOneStep := by
  refine fun s => ⟨fun t h => tick_allStepTo (.cons h .nil), fun opcode fetchedAt left h => ?_, fun r h => ?_⟩
  · refine tick_of_steppable (by simp [steppable_of_fault h]) ?_
    rw [tickFrom_fault h .nil, ite_self]
  · exact tick_refused (List.mem_singleton_self s) (steppable_of_refused h)

/-- Settles O48: a halted executor may not be stepped. -/
theorem tickRequiresNoHaltedExecutor : Obligations.TickRequiresNoHaltedExecutor :=
  fun _ _ hs hp => tick_refused hs (steppable_of_refused (step_halted hp))

end Sys2Proof.Proofs
end

section
/-! SUPPORT. Reset (70_reset_and_hazards.md): which images construct a machine, what memory reads right after it, and that the
invariant holds there. -/

namespace Sys2Proof.Machine

theorem imageWf_iff (image : List Byte) : imageWf image = true ↔ image.length = Config.imageLen := beq_iff_eq

/-- An image of another length constructs no machine (R110). -/
theorem resetMachine_malformed (draw : ResetDraw) {image : List Byte} (h : image.length ≠ Config.imageLen) :
    resetMachine draw image = .malformedImage image.length :=
  if_neg fun hwf => h ((imageWf_iff image).mp hwf)

/-- Below the image every byte reads as an unlisted address does (R27, R118). -/
theorem readByte_loadImage_below (image : List Byte) {k : Nat} (hk : k < Config.imageBase) :
    (Memory.loadImage [] image).readByte k = Config.blankByte := by
  have hlt : k < Config.memSize := hk.trans (by decide)
  rw [readByte_of_lt hlt, cell_loadImage_blank, if_neg (Nat.not_le.mpr hk)]

/-- The invariant holds right after reset: in phase `FETCH` no latch is live. -/
theorem engineAtReset_inv (draw : ResetDraw) {image : List Byte} (h : image.length = Config.imageLen) :
    (engineAtReset draw image).Inv := by
  obtain ⟨hwf, hblank⟩ := engineAtReset_memInv draw h
  exact ⟨rfl, rfl, hwf, hblank⟩

end Sys2Proof.Machine

namespace Sys2Proof.Proofs

open Sys2Proof.Machine

/-- Settles O13: the length decides which of the two outcomes reset has. -/
theorem onlyAFullLengthImageConstructs : Obligations.OnlyAFullLengthImageConstructs := by
  refine fun draw image => ⟨⟨fun ⟨c, hc⟩ => ?_, fun hlen => ⟨_, resetMachine_fullLength draw hlen⟩⟩,
    fun hlen => resetMachine_malformed draw hlen⟩
  by_contra hlen
  rw [resetMachine_malformed draw hlen] at hc
  cases hc

/-- Settles O14: `State.reset` is one of the machines that reset constructs. -/
theorem resetEstablishesTheInvariant : Obligations.ResetEstablishesTheInvariant := by
  refine ⟨?_, fun draw image hlen => engineAtReset_inv draw hlen⟩
  rw [← reset_eq]
  exact engineAtReset_inv zeroDraw List.length_replicate

/-- Settles O12: the draw and the loaded image give each component. -/
theorem resetStateIsTheTuple : Obligations.ResetStateIsTheTuple := by
  intro draw image hlen
  refine ⟨_, resetMachine_fullLength draw hlen, rfl, rfl, rfl, rfl, rfl, rfl, rfl, rfl, rfl, rfl, rfl, rfl, rfl, rfl,
    rfl, fun k hk => ?_, fun k hk => ?_⟩
  · exact readByte_loadImage_below image hk
  · exact readByte_loadImage_blank image hk

/-- Settles O11: the first tick is the opcode fetch of the one executor. -/
theorem firstTickFetchesAtTheVector : Obligations.FirstTickFetchesAtTheVector := by
  intro draw image hlen
  have hfetch : step (engineAtReset draw image) = .next (engineAtReset draw image).fetchOpcode := step_fetch (.inl rfl)
  exact ⟨_, _, resetMachine_fullLength draw hlen, rfl, rfl, tick_allStepTo (.cons hfetch .nil), rfl, rfl⟩

end Sys2Proof.Proofs
end

section
/-! SUPPORT. The stand-in for a program loaded from outside (log entry 1): the bytes placed in memory read back, and the
executor fetches the first of them next. -/

namespace Sys2Proof.Machine

/-- Bytes placed from `a` up, the addresses wrapping, are at the distances from `a` that they have in the list; every
other cell is as before. -/
theorem cell_placeBytes (c : Addr) : ∀ (bs : List Byte) (a : Addr) {m : Memory}, m.wf = true →
    bs.length ≤ Config.memSize →
    (m.placeBytes a bs).cell c.toNat = bs.getD (c - a).toNat (m.cell c.toNat)
  | [], _, _, _, _ => rfl
  | b :: bs, a, m, hm, hlen => by
    simp only [List.length_cons, Config.memSize] at hlen
    have hwf : (m.setCell a.toNat b).wf = true := placeBytes_wf [b] a hm
    have hcell := cell_setCell c.toNat a.toNat b hm
    rw [Memory.placeBytes, cell_placeBytes c bs (a + 1#16) hwf (by simp only [Config.memSize]; omega), hcell]
    by_cases hc : c = a
    · have hlast : bs.length ≤ (c - (a + 1#16)).toNat := by rw [hc]; bv_omega
      rw [if_pos (congrArg _ hc), List.getD_eq_default _ _ hlast, hc, BitVec.sub_self]
      rfl
    · have hnext : (c - a).toNat = (c - (a + 1#16)).toNat + 1 := by bv_omega
      rw [if_neg (mt BitVec.eq_of_toNat_eq hc), hnext, List.getD_cons_succ]

/-- After `withFetchWord` the bytes at `PC` are those of the word. -/
theorem load_withFetchWord {s : State} (hm : s.mem.wf = true) (nbits w : Nat) (j : Addr) :
    (s.withFetchWord nbits w).load (s.pc + j) = (wordBytes nbits w).getD j.toNat (s.load (s.pc + j)) := by
  have hlen : (wordBytes nbits w).length ≤ Config.memSize := by simp only [wordBytes, List.length_cons]; decide
  have hj : s.pc + j - s.pc = j := by bv_omega
  rw [State.load, readByte_addr, State.load, readByte_addr, State.withFetchWord, cell_placeBytes _ _ _ hm hlen, hj]

/-- After `withFetchWord` the executor rests before an opcode fetch. -/
theorem withFetchWord_phase (s : State) (nbits w : Nat) :
    (s.withFetchWord nbits w).phase = .fetch ∨ (s.withFetchWord nbits w).phase = .settle := by
  simp only [State.withFetchWord]
  split_ifs <;> simp

/-- After `withFetchWord` the instruction in flight is the word. -/
theorem inFlight_withFetchWord {s : State} (hm : s.mem.wf = true) (nbits w : Nat) :
    (s.withFetchWord nbits w).inFlight = wordBytes nbits w := by
  have h0 := load_withFetchWord hm nbits w 0#16
  have h1 := load_withFetchWord hm nbits w 1#16
  have h2 := load_withFetchWord hm nbits w 2#16
  rw [BitVec.add_zero] at h0
  rw [inFlight_fetch (withFetchWord_phase s nbits w)]
  exact congrArg₂ _ h0 (congrArg₂ _ h1 (congrArg (· :: []) h2))

/-- Bytes that decode open with the opcode of what they decode to (R54). -/
theorem head_of_decode {b : Byte} {bs rest : List Byte} {i : Instr} (h : decode (b :: bs) = .ok (i, rest)) :
    b = i.op.row.pattern := by
  have henc : b :: bs = encode i ++ rest := encode_of_decode h
  cases i <;> exact (List.cons.inj henc).1

end Sys2Proof.Machine

namespace Sys2Proof.Proofs

open Sys2Proof.Machine

/-- Settles O16: the word's bytes are in flight, and the cycle-step, `exec` of what they decode to, is the fetch of the
first of them. -/
theorem fetchWordIsWhatTheNextStepRuns : Obligations.FetchWordIsWhatTheNextStepRuns := by
  intro s nbits w i hm hw
  obtain ⟨rest, hd⟩ := decodeTableWord_eq_some.mp hw
  rw [← inFlight_withFetchWord hm] at hd
  have hp := withFetchWord_phase s nbits w
  have hbytes := inFlight_fetch hp
  refine ⟨rest, hbytes ▸ hd, step_eq_exec hd, _, step_fetch hp, ?_⟩
  exact head_of_decode (hbytes ▸ hd)

end Sys2Proof.Proofs
end
